-- ==== Sys2Proof/Word.lean ====
section
/-! DEFINITION. The words of the machine: a command or result word, a byte, a line level, and the two bus lines
(00_scope R8, R10; 30_encoding R87, R94). -/

namespace Sys2Proof

/-- A command word or a RESULT word, 32 bits (30_encoding R86, R94). -/
abbrev Word := BitVec 32

/-- A byte on the wire or in caller memory (00_scope R7, BYTE_BITS = 8). -/
abbrev Byte := BitVec 8

/-- A line level, one bit: 0 is driven low, 1 is released (00_scope R10). -/
abbrev Level := BitVec 1

/-- The two lines of a port (00_scope R9, R12). -/
inductive Line where
  | scl
  | sda
  deriving DecidableEq, Repr

end Sys2Proof
end

