-- ==== Sys2Proof/Syntax.lean ====
section
/-! DEFINITION. The commands: one constructor per row of spec/opcode_table.json, each with the fields of the word that
30_encoding R89 says it reads (a field not listed there is ignored and is no operand). LEN, TXA and RXA stand outside the
word (10_state R26, 30_encoding R86). -/

namespace Sys2Proof

/-- The command set, version 1 (30_encoding R88, R89, R90). -/
inductive Instr where
  /-- 0x0 INIT, R111. -/
  | init
  /-- 0x1 START, R112. -/
  | start
  /-- 0x2 STOP, R113. -/
  | stop
  /-- 0x3 SEND_BIT, F = the bit, R114. -/
  | sendBit (bit : BitVec 1)
  /-- 0x4 RECV_BIT, R115. -/
  | recvBit
  /-- 0x5 SEND_BYTE, B0 = the byte, R141. -/
  | sendByte (byte : BitVec 8)
  /-- 0x6 RECV_BYTE, F = send_ack, R142. -/
  | recvByte (sendAck : BitVec 1)
  /-- 0x7 WRITE, R161. -/
  | write (addr : BitVec 7)
  /-- 0x8 READ, R162. -/
  | read (addr : BitVec 7)
  /-- 0x9 WR_REG_IDX, B0 = the register index, R191. -/
  | wrRegIdx (addr : BitVec 7) (index : BitVec 8)
  /-- 0xA WR_REG, B0 = the register index, B1 = the value, R192. -/
  | wrReg (addr : BitVec 7) (index : BitVec 8) (value : BitVec 8)
  /-- 0xB WR_REGS, R193. -/
  | wrRegs (addr : BitVec 7) (index : BitVec 8)
  /-- 0xC RD_REG, R194. -/
  | rdReg (addr : BitVec 7) (index : BitVec 8)
  /-- 0xD RD_REGS, R195. -/
  | rdRegs (addr : BitVec 7) (index : BitVec 8)
  /-- OP 0xE with RSV = 0, reserved, R90. -/
  | illegalOpE
  /-- OP 0xF with RSV = 0, reserved, R90. -/
  | illegalOpF
  /-- RSV = 1, reserved whatever the other bits, R90; the next fourteen rows are RSV = 2 to 15. -/
  | illegalRsv1
  | illegalRsv2
  | illegalRsv3
  | illegalRsv4
  | illegalRsv5
  | illegalRsv6
  | illegalRsv7
  | illegalRsv8
  | illegalRsv9
  | illegalRsv10
  | illegalRsv11
  | illegalRsv12
  | illegalRsv13
  | illegalRsv14
  | illegalRsv15
  deriving DecidableEq, Repr

end Sys2Proof
end

