-- ==== Sys2Proof/WellFormed.lean ====
section
/-! DEFINITION. Which commands an assembler writes: 30_encoding R98's refusals, as checks on a command whose operands are
plain numbers, as a program's text gives them. An Instr itself is well-formed by the types of its fields, which are as wide
as the fields of the word (30_encoding R87, R92). -/

namespace Sys2Proof

/-- Every Instr is well-formed: no value of a field of its word is refused (30_encoding R90, "all 2^24 values ... are legal
with every legal OP"), and the reserved rows carry no operand. -/
def Instr.wellFormed (_ : Instr) : Bool := true

/-- One line of assembly, its operands plain numbers, in the operand order of 30_encoding R98's table. -/
inductive AsmCmd where
  | init
  | start
  | stop
  | sendBit (bit : Nat)
  | recvBit
  | sendByte (byte : Nat)
  | recvByte (ack : Bool)
  | write (addr len txa : Nat)
  | read (addr len rxa : Nat)
  | wrRegIdx (addr index : Nat)
  | wrReg (addr index value : Nat)
  | wrRegs (addr index count txa : Nat)
  | rdReg (addr index rxa : Nat)
  | rdRegs (addr index count rxa : Nat)
  deriving DecidableEq, Repr

/-- An addr above 0x7F is refused (30_encoding R98). -/
def asmAddrOk (a : Nat) : Bool := a ≤ 0x7F

/-- A byte operand above 0xFF is refused (30_encoding R98). -/
def asmByteOk (b : Nat) : Bool := b ≤ 0xFF

/-- A len or count above 0xFFFF is refused (30_encoding R98). -/
def asmLenOk (n : Nat) : Bool := n ≤ 0xFFFF

/-- A bit other than 0 or 1 is refused (30_encoding R98). -/
def asmBitOk (b : Nat) : Bool := b ≤ 1

/-- The refusals of 30_encoding R98, operand by operand. -/
def AsmCmd.wellFormed : AsmCmd → Bool
  | .init | .start | .stop | .recvBit | .recvByte _ => true
  | .sendBit b => asmBitOk b
  | .sendByte b => asmByteOk b
  | .write a n _ | .read a n _ => asmAddrOk a && asmLenOk n
  | .wrRegIdx a i | .rdReg a i _ => asmAddrOk a && asmByteOk i
  | .wrReg a i v => asmAddrOk a && asmByteOk i && asmByteOk v
  | .wrRegs a i n _ | .rdRegs a i n _ => asmAddrOk a && asmByteOk i && asmLenOk n

end Sys2Proof
end

