-- ==== Sys2Proof/Decode.lean ====
section
/-! DEFINITION. The command word: its fields, the decoder, total on all 2^32 words, the encoder, and the word as
spec/opcode_table.json numbers its bits (30_encoding R86 to R93). -/

namespace Sys2Proof

/-- OP = CMD[3:0] (30_encoding R87). -/
def fieldOp (w : Word) : BitVec 4 := w.extractLsb' 0 4

/-- F = CMD[4] (30_encoding R87). -/
def fieldF (w : Word) : BitVec 1 := w.extractLsb' 4 1

/-- ADDR = CMD[11:5] (30_encoding R87). -/
def fieldAddr (w : Word) : BitVec 7 := w.extractLsb' 5 7

/-- B0 = CMD[19:12] (30_encoding R87). -/
def fieldB0 (w : Word) : BitVec 8 := w.extractLsb' 12 8

/-- B1 = CMD[27:20] (30_encoding R87). -/
def fieldB1 (w : Word) : BitVec 8 := w.extractLsb' 20 8

/-- RSV = CMD[31:28] (30_encoding R87). -/
def fieldRsv (w : Word) : BitVec 4 := w.extractLsb' 28 4

/-- The word {RSV, B1, B0, ADDR, F, OP} (30_encoding R87). -/
def cmdWord (rsv : BitVec 4) (b1 b0 : BitVec 8) (addr : BitVec 7) (f : BitVec 1) (op : BitVec 4) : Word :=
  (rsv.zeroExtend 32 <<< 28) ||| (b1.zeroExtend 32 <<< 20) ||| (b0.zeroExtend 32 <<< 12) ||| (addr.zeroExtend 32 <<< 5)
    ||| (f.zeroExtend 32 <<< 4) ||| op.zeroExtend 32

/-- The row of a word with RSV = 0, by OP (30_encoding R88, R92). -/
def decodeOp (w : Word) : Instr :=
  match (fieldOp w).toNat with
  | 0x0 => .init
  | 0x1 => .start
  | 0x2 => .stop
  | 0x3 => .sendBit (fieldF w)
  | 0x4 => .recvBit
  | 0x5 => .sendByte (fieldB0 w)
  | 0x6 => .recvByte (fieldF w)
  | 0x7 => .write (fieldAddr w)
  | 0x8 => .read (fieldAddr w)
  | 0x9 => .wrRegIdx (fieldAddr w) (fieldB0 w)
  | 0xA => .wrReg (fieldAddr w) (fieldB0 w) (fieldB1 w)
  | 0xB => .wrRegs (fieldAddr w) (fieldB0 w)
  | 0xC => .rdReg (fieldAddr w) (fieldB0 w)
  | 0xD => .rdRegs (fieldAddr w) (fieldB0 w)
  | 0xE => .illegalOpE
  | _ => .illegalOpF

/-- The decoder, run at acceptance: RSV != 0 is reserved whatever the other bits, otherwise OP decides (30_encoding R90,
R92). It is total: a reserved word is decoded to its reserved row by name. -/
def decode (w : Word) : Instr :=
  match (fieldRsv w).toNat with
  | 0 => decodeOp w
  | 1 => .illegalRsv1
  | 2 => .illegalRsv2
  | 3 => .illegalRsv3
  | 4 => .illegalRsv4
  | 5 => .illegalRsv5
  | 6 => .illegalRsv6
  | 7 => .illegalRsv7
  | 8 => .illegalRsv8
  | 9 => .illegalRsv9
  | 10 => .illegalRsv10
  | 11 => .illegalRsv11
  | 12 => .illegalRsv12
  | 13 => .illegalRsv13
  | 14 => .illegalRsv14
  | _ => .illegalRsv15

/-- The word of a reserved row: the row's "match" in spec/opcode_table.json, every other bit 0. -/
def reservedWord (rsv op : BitVec 4) : Word := cmdWord rsv 0 0 0 0 op

/-- The encoder: the word of each command, its unused fields 0 (30_encoding R87, R88, R98 "unused fields are assembled
as 0"). -/
def encode : Instr → Word
  | .init => cmdWord 0 0 0 0 0 0x0
  | .start => cmdWord 0 0 0 0 0 0x1
  | .stop => cmdWord 0 0 0 0 0 0x2
  | .sendBit b => cmdWord 0 0 0 0 b 0x3
  | .recvBit => cmdWord 0 0 0 0 0 0x4
  | .sendByte d => cmdWord 0 0 d 0 0 0x5
  | .recvByte a => cmdWord 0 0 0 0 a 0x6
  | .write addr => cmdWord 0 0 0 addr 0 0x7
  | .read addr => cmdWord 0 0 0 addr 0 0x8
  | .wrRegIdx addr index => cmdWord 0 0 index addr 0 0x9
  | .wrReg addr index value => cmdWord 0 value index addr 0 0xA
  | .wrRegs addr index => cmdWord 0 0 index addr 0 0xB
  | .rdReg addr index => cmdWord 0 0 index addr 0 0xC
  | .rdRegs addr index => cmdWord 0 0 index addr 0 0xD
  | .illegalOpE => reservedWord 0 0xE
  | .illegalOpF => reservedWord 0 0xF
  | .illegalRsv1 => reservedWord 1 0
  | .illegalRsv2 => reservedWord 2 0
  | .illegalRsv3 => reservedWord 3 0
  | .illegalRsv4 => reservedWord 4 0
  | .illegalRsv5 => reservedWord 5 0
  | .illegalRsv6 => reservedWord 6 0
  | .illegalRsv7 => reservedWord 7 0
  | .illegalRsv8 => reservedWord 8 0
  | .illegalRsv9 => reservedWord 9 0
  | .illegalRsv10 => reservedWord 10 0
  | .illegalRsv11 => reservedWord 11 0
  | .illegalRsv12 => reservedWord 12 0
  | .illegalRsv13 => reservedWord 13 0
  | .illegalRsv14 => reservedWord 14 0
  | .illegalRsv15 => reservedWord 15 0

/-- The instruction this decoder reads from a word of spec/opcode_table.json, bit 0 its least significant bit. A command is
one 32-bit word, handed over as a register value, with no byte order in memory (20_memory R50, R53; 30_encoding R86), so
no other length and no wider number is a command. -/
def decodeTableWord (nbits w : Nat) : Option Instr :=
  if nbits ≤ 32 ∧ w < 2 ^ 32 then some (decode (BitVec.ofNat 32 w)) else none

/-- A reserved row: OP 0xE or 0xF, or RSV not 0 (30_encoding R90). -/
def Instr.reserved : Instr → Bool
  | .init | .start | .stop | .sendBit _ | .recvBit | .sendByte _ | .recvByte _ | .write _ | .read _ | .wrRegIdx _ _
  | .wrReg _ _ _ | .wrRegs _ _ | .rdReg _ _ | .rdRegs _ _ => false
  | .illegalOpE | .illegalOpF | .illegalRsv1 | .illegalRsv2 | .illegalRsv3 | .illegalRsv4 | .illegalRsv5
  | .illegalRsv6 | .illegalRsv7 | .illegalRsv8 | .illegalRsv9 | .illegalRsv10 | .illegalRsv11 | .illegalRsv12
  | .illegalRsv13 | .illegalRsv14 | .illegalRsv15 => true

/-- How many bytes of the send buffer a command reads when nothing fails, LEN given (20_memory R52, 30_encoding R89). -/
def Instr.txBytes (i : Instr) (len : BitVec 16) : Nat :=
  match i with
  | .write _ | .wrRegs _ _ => len.toNat
  | .init | .start | .stop | .sendBit _ | .recvBit | .sendByte _ | .recvByte _ | .read _ | .wrRegIdx _ _
  | .wrReg _ _ _ | .rdReg _ _ | .rdRegs _ _
  | .illegalOpE | .illegalOpF | .illegalRsv1 | .illegalRsv2 | .illegalRsv3 | .illegalRsv4 | .illegalRsv5
  | .illegalRsv6 | .illegalRsv7 | .illegalRsv8 | .illegalRsv9 | .illegalRsv10 | .illegalRsv11 | .illegalRsv12
  | .illegalRsv13 | .illegalRsv14 | .illegalRsv15 => 0

/-- How many bytes of the receive buffer a command writes when nothing fails, LEN given (20_memory R52, 30_encoding
R89). -/
def Instr.rxBytes (i : Instr) (len : BitVec 16) : Nat :=
  match i with
  | .read _ | .rdRegs _ _ => len.toNat
  | .rdReg _ _ => 1
  | .init | .start | .stop | .sendBit _ | .recvBit | .sendByte _ | .recvByte _ | .write _ | .wrRegIdx _ _
  | .wrReg _ _ _ | .wrRegs _ _
  | .illegalOpE | .illegalOpF | .illegalRsv1 | .illegalRsv2 | .illegalRsv3 | .illegalRsv4 | .illegalRsv5
  | .illegalRsv6 | .illegalRsv7 | .illegalRsv8 | .illegalRsv9 | .illegalRsv10 | .illegalRsv11 | .illegalRsv12
  | .illegalRsv13 | .illegalRsv14 | .illegalRsv15 => 0

end Sys2Proof
end

