-- ==== Sys2Proof/Config.lean ====
section
/-! DEFINITION. What an implementation fixes (the parameters of 00_scope R7) and the free values: constants with no body,
of which no proof can see a value. -/

namespace Sys2Proof

/-- What the platform provides for a port (70 R242): SCL_LOC(p) and SDA_LOC(p), the addresses of its two line locations in the
line-driver space (20_memory R51), and whether its bus has pull-ups. -/
structure PortPlatform where
  scl : Nat
  sda : Nat
  pulledUp : Bool
  deriving DecidableEq, Repr

/-- The parameters of 00_scope R7 that the machine takes. They stand in a read-only field of State, so that a statement
about every state holds for every value of them (log 5). ADDR_BITS = 7, BYTE_BITS = 8, FRAME_BITS = 9, LEN_BITS = 16 and
ACK_SETTLE_UNITS = 2 are fixed by R7 and are written into the types and the pseudocode. -/
structure Params where
  /-- T_US: the argument of one timing unit's Delay, in microseconds. -/
  tUs : Nat
  /-- STRETCH_LIMIT: the number of SCL polls reading 0 after which a receive_bit stalls; none is unbounded. -/
  stretchLimit : Option Nat
  /-- ADDR_W: the address width of caller memory. -/
  addrW : Nat
  /-- What the platform provides for every port, port 0 first. -/
  ports : List PortPlatform
  deriving DecidableEq, Repr

/-- N_PORTS: how many ports the platform provides; the port handles are the naturals below it (00_scope R7, D21). -/
def Params.nPorts (c : Params) : Nat := c.ports.length

/-- L_LOC(p): the location of a line of port p, none where there is no such port (20_memory R51, R57). -/
def Params.lineLoc (c : Params) (l : Line) (p : Nat) : Option Nat :=
  (c.ports[p]?).map fun q =>
    match l with
    | .scl => q.scl
    | .sda => q.sda

/-- Has the bus of port p pull-ups (70 R242 item 2)? -/
def Params.pulledUp (c : Params) (p : Nat) : Bool := (c.ports[p]?).all (·.pulledUp)

/-- ADDR_W, OPEN in the spec (00_scope R7, D28). -/
opaque Config.addrW : Nat

/-- SCL_LOC(p), SDA_LOC(p) and with them the set of ports, OPEN in the spec (00_scope R7, 20_memory R57, D20, D21), and whether
the platform provides each port's pull-ups (70 R242; log 18). -/
opaque Config.ports : List PortPlatform

/-- LINE_RESET(p): the drive level of each line of port p at reset, OPEN in the spec (10_state R34, 92 D9; log 1). -/
opaque Config.lineReset : Nat → Line → Level

/-- The parameters at reset: T_US = 5 and STRETCH_LIMIT = none as 00_scope R7 states, the OPEN ones left open. -/
def Config.params : Params :=
  { tUs := 5, stretchLimit := none, addrW := Config.addrW, ports := Config.ports }

/-- Free value: the n-th level the bus environment of port p presents of its own (10_state R23, 93 U1; log 2). -/
opaque Config.freeLevel : Nat → Nat → Level

/-- Free value: which of the agents able to move does so at the n-th draw (20_memory R59; log 3). -/
opaque Config.freePick : Nat → Nat

/-- Free value: a byte of a buffer the caller disturbed during a command (20_memory R62, 93 U7; log 8), and one that the caller
provides and nothing has written (log 9). -/
opaque Config.freeByte : Nat → Byte

/-- Free value: SHIFT outside a command (10_state R28; log 7). -/
opaque Config.freeShift : Nat → Byte

/-- Free value: BITCNT outside a command (10_state R28; log 7). -/
opaque Config.freeBitcnt : Nat → BitVec 4

/-- Free value: SAMPLE outside a command (10_state R28; log 7). -/
opaque Config.freeSample : Nat → Level

/-- Free value: ACKED outside a command (10_state R28; log 7). -/
opaque Config.freeAcked : Nat → BitVec 1

/-- Free value: IDX outside a command (10_state R28; log 7). -/
opaque Config.freeIdx : Nat → BitVec 17

/-- Free value: PHASE outside a command (10_state R28; log 7). -/
opaque Config.freePhase : Nat → BitVec 1

/-- Free value: POLLS outside a command (10_state R28; log 7). -/
opaque Config.freePolls : Nat → Nat

end Sys2Proof
end

