-- ==== Sys2Proof/Machine/State.lean ====
section
/-! DEFINITION. The state of the machine, plain data: the state of each port (10_state R20 to R35), caller memory
(20_memory R52), and the caller, the bus environment and the order in which the agents move (00_scope R6, 20_memory R64).
Its value at reset, and the reasons a step can stop. -/

namespace Sys2Proof.Machine

/-- A diagnostic event, what the Diagnostic sink receives (30_encoding R97). -/
inductive DiagEvent where
  /-- The address byte of a write (rw = 0) or read (rw = 1) transaction was not acknowledged. -/
  | addrNack (addr : BitVec 7) (rw : BitVec 1)
  /-- Payload byte `index` of a write transaction was not acknowledged. -/
  | dataNack (index : Nat)
  /-- A receive_bit exceeded a finite STRETCH_LIMIT. -/
  | stall
  deriving DecidableEq, Repr

/-- An event of a port's history, one per primitive (00_scope R9, 20_memory R56). -/
inductive Event where
  /-- W(L, v): SetLine. -/
  | w (l : Line) (v : Level)
  /-- R(L, v): GetLine. -/
  | r (l : Line) (v : Level)
  /-- D(n): Delay, in microseconds. -/
  | d (n : Nat)
  /-- MR(a, v): MemRead. -/
  | mr (a : Nat) (v : Byte)
  /-- MW(a, v): MemWrite. -/
  | mw (a : Nat) (v : Byte)
  /-- G(e): Diag. -/
  | g (e : DiagEvent)
  deriving DecidableEq, Repr

/-- Where a send_byte is called from: the command SEND_BYTE, the address phase, the payload of a write. -/
inductive SendSite where
  | command
  | address
  | payload
  deriving DecidableEq, Repr

/-- Where a receive_bit is called from: the commands RECV_BIT and RECV_BYTE, the payload of a read. -/
inductive RecvSite where
  | bitCommand
  | byteCommand
  | payload
  deriving DecidableEq, Repr

/-- Where a stop() is called from: the command STOP, the end of a transaction, an address NACK, a data NACK. -/
inductive StopSite where
  | command
  | success
  | addrNack
  | dataNack
  deriving DecidableEq, Repr

/-- A position of send_byte's pseudocode (41_byte_master R141). -/
inductive SendPos where
  /-- Primitive k of send_bit, for the bit BITCNT names. -/
  | bit (k : Nat)
  /-- Primitive k of the release of SDA and the two waits. -/
  | release (k : Nat)
  /-- GetLine(SDA), the acknowledge sample. -/
  | sample
  /-- Primitive k of pulse9. -/
  | pulse (k : Nat)
  deriving DecidableEq, Repr

/-- A position of receive_bit's and receive_byte's pseudocode (40_bit_master R115, 41_byte_master R142). -/
inductive RecvPos where
  /-- Primitive k of the rise of SCL: SetLine(SDA, 1), SetLine(SCL, 1), Wait. -/
  | raise (k : Nat)
  /-- GetLine(SCL), the clock-stretch poll. -/
  | poll
  /-- GetLine(SDA), the data bit. -/
  | sample
  /-- Primitive k of the fall of SCL: SetLine(SCL, 0), Wait. -/
  | lower (k : Nat)
  /-- Primitive k of the acknowledge level and pulse9. -/
  | ack (k : Nat)
  deriving DecidableEq, Repr

/-- The sequencer position POS (10_state R27): which primitive of its command's pseudocode the engine performs next. -/
inductive Pos where
  /-- The command's first primitive, at acceptance. -/
  | entry
  /-- Primitive k of INIT's two SetLine. -/
  | init (k : Nat)
  /-- Primitive k of start(). -/
  | start (k : Nat)
  /-- Primitive k of stop(), called from `site`. -/
  | stop (site : StopSite) (k : Nat)
  /-- Primitive k of the command SEND_BIT's send_bit. -/
  | sendBit (k : Nat)
  /-- In send_byte, called from `site`. -/
  | send (site : SendSite) (p : SendPos)
  /-- In receive_bit or receive_byte, called from `site`. -/
  | recv (site : RecvSite) (p : RecvPos)
  /-- MemRead of payload byte IDX. -/
  | memRead
  /-- MemWrite of received byte IDX. -/
  | memWrite
  /-- Diag of an address NACK, then of a data NACK, then of a stall. -/
  | diagAddr
  | diagData
  | diagStall
  /-- finish(FAIL), finish(STALL), and the command's own finish. -/
  | finishFail
  | finishStall
  | finish
  deriving DecidableEq, Repr

/-- The working registers of a command in flight (10_state R28). -/
structure Work where
  shift : Byte
  bitcnt : BitVec 4
  sample : Level
  acked : BitVec 1
  idx : BitVec 17
  phase : BitVec 1
  polls : Nat
  deriving DecidableEq, Repr

/-- The command operands other than the port (10_state R26). -/
structure Bundle where
  cmd : Word
  len : BitVec 16
  txa : Nat
  rxa : Nat
  deriving DecidableEq, Repr

/-- The state of one port (10_state R20): the drive levels, BUSY, RESULT, the latched command, POS, the working registers,
the event history, and the bus environment of the port. -/
structure PortState where
  /-- DRIVE[SCL] and DRIVE[SDA] (R21). -/
  scl : Level
  sda : Level
  /-- BUSY (R31). -/
  busy : Bool
  /-- RESULT (R30). -/
  result : Word
  /-- Has a command completed on the port since reset: the model's own field, for R30's fault. -/
  completed : Bool
  /-- CMD, LEN, TXA, RXA, latched at acceptance (R26). -/
  cmd : Word
  len : BitVec 16
  txa : Nat
  rxa : Nat
  /-- POS (R27). -/
  pos : Pos
  /-- The working registers (R28). -/
  work : Work
  /-- The event history, oldest first (20_memory R56). -/
  history : List Event
  /-- The send-buffer addresses the caller wrote while the command is in flight: the model's own field (log 8). -/
  disturbed : List Nat
  /-- The levels the bus environment of this port presents at the next reads, oldest first; when it is empty they are free
  (00_scope R6, 10_state R23, log 2). -/
  env : List Level
  /-- How many free levels the bus environment of this port has presented: the model's own field (log 2). -/
  presented : Nat
  deriving DecidableEq, Repr

/-- A range of caller memory. -/
structure Region where
  base : Nat
  size : Nat
  deriving DecidableEq, Repr

/-- What the caller, or the host it runs on, does to the engine (20_memory R64, 60_exceptions R225, 70 R240). -/
inductive HostAct where
  /-- Issue the bundle on port p. -/
  | issue (p : Nat) (b : Bundle)
  /-- Read RESULT[p]. -/
  | readResult (p : Nat)
  /-- Read BUSY[p]. -/
  | readBusy (p : Nat)
  /-- Place a byte in caller memory. -/
  | provide (a : Nat) (v : Byte)
  /-- Provide these ranges, and no others, for receiving. -/
  | provideRx (rs : List Region)
  /-- Read a byte of caller memory. -/
  | readByte (a : Nat)
  /-- Another agent writes a byte to a location of the line-driver space. -/
  | lineWrite (loc : Nat) (v : Byte)
  /-- Reset the engine. -/
  | reset
  deriving DecidableEq, Repr

/-- What the caller has read. -/
inductive Reply where
  | result (p : Nat) (v : Word)
  | busy (p : Nat) (b : Bool)
  | byte (a : Nat) (v : Byte)
  deriving DecidableEq, Repr

/-- An agent that can move: the sequencer of port p, or the host. -/
inductive Mover where
  | engine (p : Nat)
  | host
  deriving DecidableEq, Repr

/-- The machine. One port is in focus, the one whose sequencer moved last; a port that is neither in focus nor listed in
`others` is at its reset state. -/
structure State where
  /-- The parameters of 00_scope R7, which no step changes. -/
  cfg : Params
  /-- The port in focus, and its state. -/
  sel : Nat
  cur : PortState
  /-- The other ports, by rising handle. -/
  others : List (Nat × PortState)
  /-- Caller memory: the bytes that hold a value, by rising address (20_memory R52). A byte is provided for reading if it holds
  one or lies in `writable` (log 9). -/
  mem : List Host.Cell
  /-- The ranges of bytes the caller provides for receiving (70 R246, log 9). -/
  writable : List Region
  /-- What the host does next, oldest first, and what it has read, newest last. -/
  inbox : List HostAct
  replies : List Reply
  /-- Which agents move next, oldest first; when it is empty the choice is free (20_memory R59, log 3). -/
  turn : List Mover
  /-- How many free values, other than levels of the bus, have been taken. -/
  draws : Nat
  deriving DecidableEq, Repr

/-- Why the machine stops. -/
inductive Fault where
  /-- Raised by the host's `issue` on a port whose BUSY is 1: the caller breaks its contract and the state has no further
  meaning (60_exceptions R225, 70 R245, 90 C11). Safe. -/
  | commandWhileBusy (p : Nat)
  /-- Raised by the host's `lineWrite` at a line location of a port whose command is in flight (60_exceptions R225, 70 R245).
  Safe. -/
  | lineWriteDuringCommand (loc : Nat)
  /-- Raised by the host's `readResult` before any command has completed on the port: 10_state R30 and R34, 92 D29
  and 93 U9 each say that this read is a fault. Safe. -/
  | resultBeforeCompletion (p : Nat)
  /-- Raised by MemRead and MemWrite, and by the host's `readByte`, at an address the caller has not provided: the access
  is stuck (70 R246, 92 D23). A provided byte that holds no value yet is no such case (log 9). Safe. -/
  | bufferNotProvided (a : Nat)
  /-- Raised by the host's `provide` and `readByte` at an address of 2^ADDR_W or above, which does not exist (20_memory R52).
  Safe. -/
  | addressOutsideMemory (a : Nat)
  /-- Raised by the host's `lineWrite` at an address that is no port's line location (20_memory R51, R57). Safe. -/
  | noSuchLocation (loc : Nat)
  /-- Raised by a host act that names a port handle of N_PORTS or above, which does not exist (00_scope R7). Safe. -/
  | noSuchPort (p : Nat)
  /-- Raised by a command whose POS is no position of its own pseudocode, which no run reaches (10_state R27; log 10).
  Safe. -/
  | lostPosition
  deriving DecidableEq, Repr

/-- Why the model gives no step. -/
inductive Refusal where
  /-- Raised by exec's arm of an instruction that has no meaning yet; no arm is such. Safe. -/
  | notModelled (mnemonic : String)
  /-- Raised by the host's `lineWrite` at a line location of ports with no command in flight: 10_state R21 says only SetLine
  writes the drive levels and the spec gives another writer no effect (log 4). Safe. -/
  | lineWriteWhileIdle (loc : Nat)
  deriving DecidableEq, Repr

/-- The outcomes of a step. -/
abbrev Out := Host.Outcome State Fault Refusal

/-- The working registers at reset: DESIGN CHOICE, 10_state R34 leaves them unspecified and not readable (log 6). -/
def Work.reset : Work :=
  { shift := 0, bitcnt := 0, sample := 0, acked := 0, idx := 0, phase := 0, polls := 0 }

/-- A port at reset (10_state R34, 70 R240): DRIVE is LINE_RESET(p), BUSY 0, the history empty; the rest, which the spec
leaves unspecified, is DESIGN CHOICE (log 6). -/
def PortState.reset (p : Nat) : PortState :=
  { scl := Config.lineReset p .scl, sda := Config.lineReset p .sda, busy := false, result := 0, completed := false,
    cmd := 0, len := 0, txa := 0, rxa := 0, pos := .entry, work := Work.reset, history := [], disturbed := [],
    env := [], presented := 0 }

/-- A port when the engine is reset: at its reset state, its bus environment, which is not the engine's (00_scope R6, 93 U12),
as it was. -/
def PortState.restart (p : Nat) (q : PortState) : PortState :=
  { PortState.reset p with env := q.env, presented := q.presented }

/-- The machine right after reset (10_state R34, 70 R240, R241): no command in flight on any port, no byte of caller memory
holding a value, nothing asked by the host yet. -/
def State.reset : State :=
  { cfg := Config.params, sel := 0, cur := PortState.reset 0, others := [], mem := [], writable := [], inbox := [],
    replies := [], turn := [], draws := 0 }

end Sys2Proof.Machine
end

