-- ==== Sys2Proof/Machine/Ops.lean ====
section
/-! DEFINITION. The named operations: lists kept by rising key (caller memory, the ports), the primitives of 00_scope R9
on the port in focus, the moves of the sequencer, acceptance, finish, and the reporting of a failure (60_exceptions R214). -/

namespace Sys2Proof.Machine

/-! Lists of key and value, by strictly rising key. -/

/-- The value at a key. -/
def kvFind {α : Type} (k : Nat) : List (Nat × α) → Option α
  | [] => none
  | (j, v) :: t => if j = k then some v else kvFind k t

/-- Put a value at a key, keeping the order. -/
def kvPut {α : Type} (k : Nat) (v : α) : List (Nat × α) → List (Nat × α)
  | [] => [(k, v)]
  | (j, u) :: t => if k < j then (k, v) :: (j, u) :: t else if k = j then (k, v) :: t else (j, u) :: kvPut k v t

/-- Take a key out. -/
def kvErase {α : Type} (k : Nat) : List (Nat × α) → List (Nat × α)
  | [] => []
  | (j, u) :: t => if j = k then t else (j, u) :: kvErase k t

/-- Are the keys strictly rising, the first above `lo` where one is given? -/
def kvRising {α : Type} (lo : Option Nat) : List (Nat × α) → Bool
  | [] => true
  | (j, _) :: t => (match lo with | none => true | some n => decide (n < j)) && kvRising (some j) t

/-! Caller memory (20_memory R52): a byte that is listed holds a value; an address not listed holds none. -/

/-- The byte at an address, none where nothing has been put. -/
def memFind (a : Nat) (m : List Host.Cell) : Option Byte := kvFind a m

/-- Write one byte. -/
def memPut (a : Nat) (v : Byte) (m : List Host.Cell) : List Host.Cell := kvPut a v m

/-- Caller memory's canonical form: addresses strictly rising. No byte equals what an unlisted address reads as, since that
has no value. -/
def Memory.wf (m : List Host.Cell) : Bool := kvRising none m

/-- Does the caller provide the byte at an address for receiving (70 R246)? -/
def State.mayWrite (a : Nat) (s : State) : Bool :=
  s.writable.any fun r => decide (r.base ≤ a) && decide (a < r.base + r.size)

/-- Can the byte at an address be read: does it hold a value, or does the caller provide it (70 R246)? -/
def State.mayRead (a : Nat) (s : State) : Bool := (memFind a s.mem).isSome || s.mayWrite a

/-- The value the spec fixes for a read of an address: the one the byte holds, none where it holds none yet and where the read
is one that 20_memory R62 leaves unspecified. -/
def State.fixedByte (a : Nat) (unspecified : Bool) (s : State) : Option Byte :=
  if unspecified then none else memFind a s.mem

/-- The byte a read of an address finds: the fixed one, else a free value (log 8, log 9). -/
def State.byteAt (a : Nat) (unspecified : Bool) (s : State) : Byte :=
  (s.fixedByte a unspecified).getD (Config.freeByte s.draws)

/-- The state after that read: the free value, if it found one, is taken. -/
def State.looked (a : Nat) (unspecified : Bool) (s : State) : State :=
  if (s.fixedByte a unspecified).isNone then { s with draws := s.draws + 1 } else s

/-! The ports. -/

/-- The state of port p, wherever it stands; a port never touched since reset is at its reset state. -/
def State.port (p : Nat) (s : State) : PortState :=
  if p = s.sel then s.cur else (kvFind p s.others).getD (PortState.reset p)

/-- Bring port p into focus; the state of every port stays what it was. -/
def State.focus (p : Nat) (s : State) : State :=
  if p = s.sel then s
  else { s with sel := p, cur := s.port p, others := kvErase p (kvPut s.sel s.cur s.others) }

/-- The ports with a command in flight, the one in focus first. -/
def State.busyPorts (s : State) : List Nat :=
  (if s.cur.busy then [s.sel] else []) ++ (s.others.filter fun e => e.2.busy).map Prod.fst

/-! Fields of the port in focus. -/

/-- The drive level of a line (10_state R21). -/
def PortState.drive (l : Line) (q : PortState) : Level :=
  match l with
  | .scl => q.scl
  | .sda => q.sda

/-- Write the drive level of a line. -/
def PortState.setDrive (l : Line) (v : Level) (q : PortState) : PortState :=
  match l with
  | .scl => { q with scl := v }
  | .sda => { q with sda := v }

/-- Append an event to the port's history (20_memory R56). -/
def State.log (e : Event) (s : State) : State :=
  { s with cur := { s.cur with history := s.cur.history ++ [e] } }

/-- Move POS (10_state R27). -/
def State.goto (p : Pos) (s : State) : State := { s with cur := { s.cur with pos := p } }

/-- Write working registers (10_state R28). -/
def State.setWork (f : Work → Work) (s : State) : State := { s with cur := { s.cur with work := f s.cur.work } }

/-- At acceptance POS is the first primitive: give the working registers the values the pseudocode assigns before it, and
name that position. Elsewhere nothing. -/
def State.enter (f : State → State) (s : State) : State := if s.cur.pos = .entry then f s else s

/-! The Line Driver (20_memory R51, 92 D19). -/

/-- LINE_BYTE_W: the byte written for a level. -/
def lineByteW (v : Level) : Byte := if v = 1 then 0x01 else 0x00

/-- LINE_BYTE_R: the level read from a byte, its bit 0. -/
def lineByteR (b : Byte) : Level := b.extractLsb' 0 1

/-- An access of the line-driver space: one byte written to a location, or one byte read whose bit 0 is the level (20_memory
R51). -/
inductive LineAccess where
  | write (loc : Nat) (b : Byte)
  | read (loc : Nat) (v : Level)
  deriving DecidableEq, Repr

/-- The line-driver access an event of port p is: SetLine writes LINE_BYTE_W(v) to L_LOC(p), GetLine reads L_LOC(p) (20_memory
R50, R51). -/
def Event.lineAccess (c : Params) (p : Nat) (e : Event) : Option LineAccess :=
  match e with
  | .w l v => (c.lineLoc l p).map fun a => .write a (lineByteW v)
  | .r l v => (c.lineLoc l p).map fun a => .read a v
  | .d _ | .mr _ _ | .mw _ _ | .g _ => none

/-! The primitives of 00_scope R9, on the port in focus. -/

/-- SetLine(L, v): one byte-wide write of LINE_BYTE_W(v) to the line's location, after which the line is driven at the
level of that byte (00_scope R9, 10_state R21, 20_memory R51). Event W(L, v). -/
def State.setLine (l : Line) (v : Level) (s : State) : State :=
  { s with cur := { s.cur.setDrive l (lineByteR (lineByteW v)) with history := s.cur.history ++ [.w l v] } }

/-- ENV: the level the bus environment of the port presents at this read, the next of its `env` or a free value (10_state R22,
R23); without pull-ups, which are part of it (00_scope R6), 0, since no line reads 1 (70 R242 item 2). -/
def State.envLevel (s : State) : Level :=
  if s.cfg.pulledUp s.sel then
    match s.cur.env with
    | [] => Config.freeLevel s.sel s.cur.presented
    | v :: _ => v
  else 0

/-- The environment of the port has presented one level. -/
def State.drawn (s : State) : State :=
  match s.cur.env with
  | [] => { s with cur := { s.cur with presented := s.cur.presented + 1 } }
  | _ :: t => { s with cur := { s.cur with env := t } }

/-- LEVEL[L] = DRIVE[L] AND ENV[L], at this read (10_state R22). -/
def State.level (l : Line) (s : State) : Level := s.cur.drive l &&& s.envLevel

/-- GetLine(L): one byte-wide read of the line's location, the level in its bit 0; no effect on the port but SAMPLE, where
every GetLine of the pseudocode leaves its level (10_state R23, R28, 20_memory R51). Event R(L, v). -/
def State.getLine (l : Line) (s : State) : State :=
  (s.drawn.setWork fun w => { w with sample := lineByteR (lineByteW (s.level l)) }).log (.r l (lineByteR (lineByteW (s.level l))))

/-- Delay(n): blocking, no effect but its event D(n); the model keeps no time (70 R252). -/
def State.delay (n : Nat) (s : State) : State := s.log (.d n)

/-- Wait = Delay(T_US), one timing unit (00_scope R9). -/
def State.wait (s : State) : State := s.delay s.cfg.tUs

/-- Diag(e): one call to the Diagnostic sink; no other effect (10_state R32, 60_exceptions R226). Event G(e). -/
def State.diag (e : DiagEvent) (s : State) : State := s.log (.g e)

/-- Has the caller disturbed the send-buffer byte at an address during the command in focus (20_memory R62)? -/
def State.disturbedAt (a : Nat) (s : State) : Bool := decide (a ∈ s.cur.disturbed)

/-- MemRead(a, 1): one byte of caller memory, which `use` takes; stuck where the caller has provided none (70 R246). A byte
the caller disturbed during the command, and one that holds no value yet, is a free value (20_memory R62, 93 U7; log 8, log 9).
Event MR(a, v). -/
def State.memRead (a : Nat) (use : Byte → State → State) (s : State) : Out :=
  let v := s.byteAt a (s.disturbedAt a)
  if s.mayRead a then .next (use v ((s.looked a (s.disturbedAt a)).log (.mr a v)))
  else .fault (.bufferNotProvided a)

/-- MemWrite(a, 1, v): one byte of caller memory; stuck where the caller has provided none (70 R246). Event MW(a, v). -/
def State.memWrite (a : Nat) (v : Byte) (ret : State → State) (s : State) : Out :=
  if s.mayWrite a then .next (ret (({ s with mem := memPut a v s.mem }).log (.mw a v)))
  else .fault (.bufferNotProvided a)

/-- The working registers when no command has written them: unspecified (10_state R28), a free value each (log 7). -/
def freeWork (n : Nat) : Work :=
  { shift := Config.freeShift n, bitcnt := Config.freeBitcnt n, sample := Config.freeSample n,
    acked := Config.freeAcked n, idx := Config.freeIdx n, phase := Config.freePhase n, polls := Config.freePolls n }

/-- finish(r): RESULT takes r and BUSY clears, in one step; the working registers are unspecified from here on (00_scope R9,
10_state R28, R30). POS and the latched operands CMD, LEN, TXA and RXA, which have no meaning outside a command (10_state R26,
R34), keep their last values: DESIGN CHOICE (log 7); nothing reads them until the next acceptance writes them. -/
def State.finish (r : Word) (s : State) : State :=
  { s with
    cur := { s.cur with busy := false, result := r, completed := true, work := freeWork s.draws }
    draws := s.draws + 1 }

/-- Acceptance of a command on the port in focus: the operands are latched, BUSY sets, POS is the first primitive, the
working registers are unspecified (10_state R26, R27, R28, R31; 20_memory R62). -/
def State.accept (b : Bundle) (s : State) : State :=
  { s with
    cur := { s.cur with busy := true, cmd := b.cmd, len := b.len, txa := b.txa, rxa := b.rxa, pos := .entry,
                        work := freeWork s.draws, disturbed := [] }
    draws := s.draws + 1 }

/-! Straight-line pseudocode: SetLine and Wait one after another. -/

/-- A primitive that only drives a line or waits. -/
inductive LineAct where
  | set (l : Line) (v : Level)
  | wait
  deriving DecidableEq, Repr

/-- Perform it. -/
def LineAct.perform (a : LineAct) (s : State) : State :=
  match a with
  | .set l v => s.setLine l v
  | .wait => s.wait

/-- The event it leaves, T_US given. -/
def LineAct.event (tUs : Nat) (a : LineAct) : Event :=
  match a with
  | .set l v => .w l v
  | .wait => .d tUs

/-- Primitive k of a straight line of pseudocode: perform it, and move POS to primitive k + 1 or, after the last, on to what
follows (10_state R27). -/
def lineStep (code : List LineAct) (here : Nat → Pos) (ret : State → State) (k : Nat) (s : State) : Out :=
  match code[k]? with
  | none => .fault .lostPosition
  | some a => .next (if k + 1 < code.length then (a.perform s).goto (here (k + 1)) else ret (a.perform s))

end Sys2Proof.Machine
end

