-- ==== Sys2Proof/Machine/Operands.lean ====
section
/-! DEFINITION. The operand forms: the address byte, the bits of a byte in wire order, buffer addresses, and where a write's
payload byte comes from (30_encoding R84, R93; 41_byte_master R143; 20_memory R52; 43_register_gateway R190). -/

namespace Sys2Proof.Machine

/-- The address byte {addr, rw} = ((zext_8(addr) << 1) | rw)[7:0] (30_encoding R84, 42_buffer_master R160). -/
def addrByte (addr : BitVec 7) (rw : BitVec 1) : Byte := (addr.zeroExtend 8 <<< 1) ||| rw.zeroExtend 8

/-- The k-th bit of a byte on the wire, bit 7 - k: most significant first (41_byte_master R143). -/
def wireBit (d : Byte) (k : Nat) : Level := d.extractLsb' (7 - k) 1

/-- Insert a received bit below the bits received so far, kept to 8 bits (41_byte_master R142, R143). -/
def shiftIn (d : Byte) (b : Level) : Byte := (d <<< 1) ||| b.zeroExtend 8

/-- Address of byte i of a buffer, modulo 2^ADDR_W (20_memory R52). -/
def bufAddr (addrW base i : Nat) : Nat := (base + i) % 2 ^ addrW

/-- Is address a one of the n bytes of the buffer at `base`? (20_memory R52, addresses modulo 2^ADDR_W.) -/
def inBuffer (addrW base n a : Nat) : Bool := (a + 2 ^ addrW - base % 2 ^ addrW) % 2 ^ addrW < n

/-- Where payload byte i of a write transaction comes from: a field of the command word, or byte `off` of the send buffer
(42_buffer_master R160, 43_register_gateway R190). -/
inductive Payload where
  | field (v : Byte)
  | buffer (off : Nat)
  deriving DecidableEq, Repr

/-- WRITE's payload: byte i of the send buffer (42_buffer_master R161). -/
def payloadWrite (i : Nat) : Payload := .buffer i

/-- WR_REG_IDX's payload, [index] (43_register_gateway R191); phase 0 of RD_REG and RD_REGS too (R194, R195). -/
def payloadIndex (index : Byte) (_ : Nat) : Payload := .field index

/-- WR_REG's payload, [index, value] (43_register_gateway R192). -/
def payloadReg (index value : Byte) (i : Nat) : Payload := if i = 0 then .field index else .field value

/-- WR_REGS's payload, the index and then the send buffer (43_register_gateway R193). -/
def payloadRegs (index : Byte) (i : Nat) : Payload := if i = 0 then .field index else .buffer (i - 1)

/-- send_ack of byte IDX of a read of n bytes: 1 (ACK) for all but the last, 0 (NACK) for the last (42_buffer_master
R162). -/
def readAck (idx n : Nat) : BitVec 1 := if idx ≠ n - 1 then 1 else 0

end Sys2Proof.Machine
end

