-- ==== Sys2Proof/Machine/Caller.lean ====
section
/-! DEFINITION. The caller and the host it runs on, one of the agents (00_scope R6, 20_memory R64): what each of its acts does,
and which agent moves next. -/

namespace Sys2Proof.Machine

/-- Issue a command on port p: accepted while BUSY[p] = 0, a fault of the caller otherwise (10_state R26, R31; 60_exceptions
R225). TXA and RXA have ADDR_W bits. -/
def hostIssue (p : Nat) (b : Bundle) (s : State) : Out :=
  if p < s.cfg.nPorts then
    if (s.port p).busy then .fault (.commandWhileBusy p)
    else .next ((s.focus p).accept { b with txa := b.txa % 2 ^ s.cfg.addrW, rxa := b.rxa % 2 ^ s.cfg.addrW })
  else .fault (.noSuchPort p)

/-- Read RESULT[p], at any time after the first completion; before it the spec has the read fault (10_state R30, R34, R35;
92 D29, 93 U9). -/
def hostReadResult (p : Nat) (s : State) : Out :=
  if p < s.cfg.nPorts then
    if (s.port p).completed then .next { s with replies := s.replies ++ [.result p (s.port p).result] }
    else .fault (.resultBeforeCompletion p)
  else .fault (.noSuchPort p)

/-- Read BUSY[p], at any time (10_state R31, R35). -/
def hostReadBusy (p : Nat) (s : State) : Out :=
  if p < s.cfg.nPorts then .next { s with replies := s.replies ++ [.busy p (s.port p).busy] }
  else .fault (.noSuchPort p)

/-- Is address a in the send buffer of port state q's command in flight? (20_memory R52, R62.) -/
def PortState.sends (addrW a : Nat) (q : PortState) : Bool :=
  q.busy && inBuffer addrW q.txa ((decode q.cmd).txBytes q.len) a

/-- Is address a in the receive buffer of port state q's command in flight? (20_memory R52, R62.) -/
def PortState.receives (addrW a : Nat) (q : PortState) : Bool :=
  q.busy && inBuffer addrW q.rxa ((decode q.cmd).rxBytes q.len) a

/-- The caller wrote address a: where a command in flight sends it, the byte sent is unspecified (20_memory R62, 93 U7). -/
def PortState.disturb (addrW a : Nat) (q : PortState) : PortState :=
  if q.sends addrW a then { q with disturbed := a :: q.disturbed } else q

/-- Place a byte in caller memory (30_encoding R98 `.mem`, 70 R246). -/
def hostProvide (a : Nat) (v : Byte) (s : State) : Out :=
  if a < 2 ^ s.cfg.addrW then
    .next { s with
      mem := memPut a v s.mem
      cur := s.cur.disturb s.cfg.addrW a
      others := s.others.map fun e => (e.1, e.2.disturb s.cfg.addrW a) }
  else .fault (.addressOutsideMemory a)

/-- Provide these ranges, and no others, for receiving (70 R246). What they hold is not said: free until written (log 9). -/
def hostProvideRx (rs : List Region) (s : State) : Out := .next { s with writable := rs }

/-- Does a command in flight receive into address a? -/
def State.receiving (a : Nat) (s : State) : Bool :=
  s.cur.receives s.cfg.addrW a || s.others.any fun e => e.2.receives s.cfg.addrW a

/-- Read a byte of caller memory: of the receive buffer when its command has ended, with whatever STATUS (20_memory R64), or any
other byte the caller has. A byte it provides and that nothing has written answers a free value (log 9), and so does one that
a command in flight receives into (20_memory R62, 93 U7; log 8). -/
def hostReadByte (a : Nat) (s : State) : Out :=
  if a < 2 ^ s.cfg.addrW then
    if s.mayRead a || s.receiving a then
      .next { s.looked a (s.receiving a) with replies := s.replies ++ [.byte a (s.byteAt a (s.receiving a))] }
    else .fault (.bufferNotProvided a)
  else .fault (.addressOutsideMemory a)

/-- The ports one of whose lines has this location (20_memory R51). -/
def State.portsAt (loc : Nat) (s : State) : List Nat :=
  (List.range s.cfg.nPorts).filter fun p => s.cfg.lineLoc .scl p = some loc || s.cfg.lineLoc .sda p = some loc

/-- Another agent writes a line location: a fault during a command of its port (60_exceptions R225, 70 R245); between commands
the spec gives it no effect (10_state R21). -/
def hostLineWrite (loc : Nat) (s : State) : Out :=
  if s.portsAt loc = [] then .fault (.noSuchLocation loc)
  else if (s.portsAt loc).any fun p => (s.port p).busy then .fault (.lineWriteDuringCommand loc)
  else .refused (.lineWriteWhileIdle loc)

/-- Reset: every command in flight is abandoned, no STOP, no RESULT, BUSY 0 and DRIVE at LINE_RESET on every port, the
histories empty (10_state R34, 70 R240). Caller memory and the other agents, the bus environment of each port among them, are
not the engine's. PORT, which R34 leaves unspecified, keeps the port in focus: DESIGN CHOICE (log 6). -/
def hostReset (s : State) : Out :=
  .next { s with cur := s.cur.restart s.sel, others := s.others.map fun e => (e.1, e.2.restart e.1) }

/-- One act of the host. -/
def hostAct (a : HostAct) (s : State) : Out :=
  match a with
  | .issue p b => hostIssue p b s
  | .readResult p => hostReadResult p s
  | .readBusy p => hostReadBusy p s
  | .provide a v => hostProvide a v s
  | .provideRx rs => hostProvideRx rs s
  | .readByte a => hostReadByte a s
  | .lineWrite loc _ => hostLineWrite loc s
  | .reset => hostReset s

/-- The host moves: its next act, if it has one. -/
def hostStep (s : State) : Out :=
  match s.inbox with
  | [] => .next s
  | a :: t => hostAct a { s with inbox := t }

/-- The agents that can move: the sequencers of the ports with a command in flight, and the host if it has an act. -/
def State.movers (s : State) : List Mover :=
  s.busyPorts.map Mover.engine ++ (if s.inbox.isEmpty then [] else [.host])

/-- Pick one of the movers m :: ms by a number. -/
def pickMover (n : Nat) (m : Mover) (ms : List Mover) : Mover := (m :: ms).getD (n % (ms.length + 1)) m

/-- Which agent moves next, none if none can: the next of `turn`, or the only mover, or any of them (20_memory R59; log 3). -/
def State.mover (s : State) : Option Mover :=
  match s.turn with
  | m :: _ => some m
  | [] =>
    match s.movers with
    | [] => none
    | [m] => some m
    | m :: ms => some (pickMover (Config.freePick s.draws) m ms)

/-- The choice of the agent has been taken. -/
def State.picked (s : State) : State :=
  match s.turn with
  | _ :: t => { s with turn := t }
  | [] => if s.movers.length ≤ 1 then s else { s with draws := s.draws + 1 }

/-- A command placed on the port in focus as if just accepted, with LEN, TXA and RXA 0, such that its sequencer moves next. -/
def State.load (w : Word) (s : State) : State :=
  let s' := s.accept { cmd := w, len := 0, txa := 0, rxa := 0 }
  if s'.mover = some (.engine s'.sel) ∧ s'.turn = [] ∧ s'.movers.length ≤ 1 then s'
  else { s' with turn := .engine s'.sel :: s'.turn }

end Sys2Proof.Machine
end

