-- ==== Sys2Proof/Machine/Flags.lean ====
section
/-! DEFINITION. The engine's one flag, the Transaction Outcome (10_state R29): ACKED inside a command, the STATUS and ACK
fields of RESULT at its end (30_encoding R94, R95, R96). -/

namespace Sys2Proof.Machine

/-- ACKED of an SDA sample: low is ACK (41_byte_master R141, R145). -/
def ackOf (sample : Level) : BitVec 1 := if sample = 0 then 1 else 0

/-- Has the address phase failed: its byte was not acknowledged (60_exceptions R211), or the bus has no pull-ups, where every
address phase fails (70 R242 item 2, on which R141, R145 and R211 wait: DEDUCED, log 18). -/
def State.addressFails (s : State) : Bool := decide (s.cur.work.acked = 0) || !s.cfg.pulledUp s.sel

/-- The level SDA is driven at for send_ack: 0 for ACK, 1 for NACK (41_byte_master R142, R145). -/
def ackLevel (sendAck : BitVec 1) : Level := if sendAck = 1 then 0 else 1

/-- STATUS (30_encoding R95). -/
def statusOk : BitVec 2 := 0b00
/-- STATUS (30_encoding R95). -/
def statusFail : BitVec 2 := 0b01
/-- STATUS (30_encoding R95). -/
def statusStall : BitVec 2 := 0b10
/-- STATUS (30_encoding R95). -/
def statusIllegal : BitVec 2 := 0b11

/-- result(STATUS, ACK, VALUE): the RESULT word, its bits 31:11 hardwired 0 (30_encoding R94). -/
def resultWord (status : BitVec 2) (ack : BitVec 1) (value : Byte) : Word :=
  (value.zeroExtend 32 <<< 3) ||| (ack.zeroExtend 32 <<< 2) ||| status.zeroExtend 32

/-- STATUS = OK with nothing else. -/
def resultOk : Word := resultWord statusOk 0 0
/-- STATUS = FAIL. -/
def resultFail : Word := resultWord statusFail 0 0
/-- STATUS = STALL. -/
def resultStall : Word := resultWord statusStall 0 0
/-- STATUS = ILLEGAL. -/
def resultIllegal : Word := resultWord statusIllegal 0 0
/-- STATUS = OK, ACK = a: SEND_BYTE's result. -/
def resultAck (a : BitVec 1) : Word := resultWord statusOk a 0
/-- STATUS = OK, VALUE = v: the result of RECV_BIT, RECV_BYTE and RD_REG. -/
def resultValue (v : Byte) : Word := resultWord statusOk 0 v

/-- STATUS of a RESULT word (30_encoding R94). -/
def resultStatus (r : Word) : BitVec 2 := r.extractLsb' 0 2
/-- ACK of a RESULT word (30_encoding R94). -/
def resultAckBit (r : Word) : BitVec 1 := r.extractLsb' 2 1
/-- VALUE of a RESULT word (30_encoding R94). -/
def resultValueField (r : Word) : Byte := r.extractLsb' 3 8

end Sys2Proof.Machine
end

