-- ==== Sys2Proof/Machine/BitMaster.lean ====
section
/-! DEFINITION. i2c_bit_master: the procedures start, stop, send_bit, receive_bit, INIT's, and the commands INIT, START, STOP,
SEND_BIT, RECV_BIT (40_bit_master). A procedure is given its position and what follows it (00_scope R11). -/

namespace Sys2Proof.Machine

/-- initialize() (40_bit_master R111). -/
def initCode : List LineAct := [.set .scl 1, .set .sda 1]

/-- start() (40_bit_master R112). -/
def startCode : List LineAct :=
  [.set .sda 1, .wait, .set .scl 1, .wait, .set .sda 0, .wait, .set .scl 0, .wait]

/-- stop() (40_bit_master R113). -/
def stopCode : List LineAct := [.set .sda 0, .wait, .set .scl 1, .wait, .set .sda 1, .wait]

/-- send_bit(b) (40_bit_master R114). -/
def sendBitCode (b : Level) : List LineAct := [.set .sda b, .wait, .set .scl 1, .wait, .set .scl 0]

/-- receive_bit() before its poll loop (40_bit_master R115). -/
def raiseCode : List LineAct := [.set .sda 1, .set .scl 1, .wait]

/-- receive_bit() after its sample (40_bit_master R115). -/
def lowerCode : List LineAct := [.set .scl 0, .wait]

/-- start(), then `ret`. -/
def startStep (ret : State → State) (k : Nat) (s : State) : Out := lineStep startCode .start ret k s

/-- stop() called from `site`, then `ret`. -/
def stopStep (site : StopSite) (ret : State → State) (k : Nat) (s : State) : Out := lineStep stopCode (.stop site) ret k s

/-- SAMPLE <- GetLine(SCL). If it reads 1 the loop is left. If it reads 0 and STRETCH_LIMIT is finite the poll is counted,
and the n-th ends the command in a stall; otherwise the poll is repeated, for ever if the line is never released
(40_bit_master R115, R116; 60_exceptions R213). -/
def pollStep (site : RecvSite) (s : State) : State :=
  let s' := s.getLine .scl
  if s'.cur.work.sample = 1 then s'.goto (.recv site .sample)
  else
    match s'.cfg.stretchLimit with
    | none => s'.goto (.recv site .poll)
    | some n =>
      let s'' := s'.setWork fun w => { w with polls := w.polls + 1 }
      if s''.cur.work.polls = n then s''.goto .diagStall else s''.goto (.recv site .poll)

/-- receive_bit() called from `site`, then `ret` with the bit in SAMPLE (40_bit_master R115). -/
def receiveBitStep (site : RecvSite) (ret : State → State) (p : RecvPos) (s : State) : Out :=
  match p with
  | .raise k =>
    lineStep raiseCode (fun j => .recv site (.raise j))
      (fun t => (t.setWork fun w => { w with polls := 0 }).goto (.recv site .poll)) k s
  | .poll => .next (pollStep site s)
  | .sample => .next ((s.getLine .sda).goto (.recv site (.lower 0)))
  | .lower k => lineStep lowerCode (fun j => .recv site (.lower j)) ret k s
  | .ack _ => .fault .lostPosition

/-- stall(): Diag(Stall()), then finish(STALL); no line event and no STOP (40_bit_master R116). -/
def stallDiagStep (s : State) : Out := .next ((s.diag .stall).goto .finishStall)

/-- finish(STATUS = STALL) (40_bit_master R116). -/
def stallFinishStep (s : State) : Out := .next (s.finish resultStall)

/-- INIT (40_bit_master R111). -/
def execInit (s : State) : Out :=
  let s := s.enter (State.goto (.init 0))
  match s.cur.pos with
  | .init k => lineStep initCode .init (State.goto .finish) k s
  | .finish => .next (s.finish resultOk)
  | _ => .fault .lostPosition

/-- START (40_bit_master R112). -/
def execStart (s : State) : Out :=
  let s := s.enter (State.goto (.start 0))
  match s.cur.pos with
  | .start k => startStep (State.goto .finish) k s
  | .finish => .next (s.finish resultOk)
  | _ => .fault .lostPosition

/-- STOP (40_bit_master R113). -/
def execStop (s : State) : Out :=
  let s := s.enter (State.goto (.stop .command 0))
  match s.cur.pos with
  | .stop .command k => stopStep .command (State.goto .finish) k s
  | .finish => .next (s.finish resultOk)
  | _ => .fault .lostPosition

/-- SEND_BIT (40_bit_master R114). -/
def execSendBit (bit : BitVec 1) (s : State) : Out :=
  let s := s.enter (State.goto (.sendBit 0))
  match s.cur.pos with
  | .sendBit k => lineStep (sendBitCode bit) .sendBit (State.goto .finish) k s
  | .finish => .next (s.finish resultOk)
  | _ => .fault .lostPosition

/-- RECV_BIT (40_bit_master R115). -/
def execRecvBit (s : State) : Out :=
  let s := s.enter (State.goto (.recv .bitCommand (.raise 0)))
  match s.cur.pos with
  | .recv .bitCommand p => receiveBitStep .bitCommand (State.goto .finish) p s
  | .diagStall => stallDiagStep s
  | .finishStall => stallFinishStep s
  | .finish => .next (s.finish (resultValue (s.cur.work.sample.zeroExtend 8)))
  | _ => .fault .lostPosition

end Sys2Proof.Machine
end

