-- ==== Sys2Proof/Machine/ByteMaster.lean ====
section
/-! DEFINITION. i2c_byte_master: send_byte, receive_byte, and the commands SEND_BYTE and RECV_BYTE (41_byte_master). -/

namespace Sys2Proof.Machine

/-- pulse9(), the ninth clock (41_byte_master R140). -/
def pulse9Code : List LineAct := [.wait, .set .scl 1, .wait, .set .scl 0]

/-- The release of SDA and the two timing units before the acknowledge sample (41_byte_master R141). -/
def releaseCode : List LineAct := [.set .sda 1, .wait, .wait]

/-- The acknowledge level and the ninth clock of receive_byte (41_byte_master R142). -/
def ackCode (sendAck : BitVec 1) : List LineAct := .set .sda (ackLevel sendAck) :: pulse9Code

/-- Call send_byte(d) from `site`: SHIFT <- d, BITCNT <- 0, POS at its first primitive (41_byte_master R141). -/
def callSendByte (site : SendSite) (d : Byte) (s : State) : State :=
  (s.setWork fun w => { w with shift := d, bitcnt := 0 }).goto (.send site (.bit 0))

/-- After send_bit: the next value of BITCNT, up to 7, or the release of SDA (41_byte_master R141). -/
def nextSendBit (site : SendSite) (s : State) : State :=
  let s' := s.setWork fun w => { w with bitcnt := w.bitcnt + 1 }
  if s'.cur.work.bitcnt.toNat < 8 then s'.goto (.send site (.bit 0)) else s'.goto (.send site (.release 0))

/-- send_byte called from `site`, then `ret` with the acknowledgement in ACKED (41_byte_master R141). -/
def sendByteStep (site : SendSite) (ret : State → State) (p : SendPos) (s : State) : Out :=
  match p with
  | .bit k =>
    lineStep (sendBitCode (wireBit s.cur.work.shift s.cur.work.bitcnt.toNat)) (fun j => .send site (.bit j))
      (nextSendBit site) k s
  | .release k => lineStep releaseCode (fun j => .send site (.release j)) (State.goto (.send site .sample)) k s
  | .sample => .next ((s.getLine .sda).goto (.send site (.pulse 0)))
  | .pulse k =>
    lineStep pulse9Code (fun j => .send site (.pulse j))
      (fun t => ret (t.setWork fun w => { w with acked := ackOf w.sample })) k s

/-- Call receive_byte from `site`: SHIFT <- 0, BITCNT <- 0, POS at its first primitive (41_byte_master R142). -/
def callReceiveByte (site : RecvSite) (s : State) : State :=
  (s.setWork fun w => { w with shift := 0, bitcnt := 0 }).goto (.recv site (.raise 0))

/-- After receive_bit: the bit into SHIFT, then the next value of BITCNT, up to 7, or the acknowledge level
(41_byte_master R142). -/
def nextReceiveBit (site : RecvSite) (s : State) : State :=
  let s' := s.setWork fun w => { w with shift := shiftIn w.shift w.sample, bitcnt := w.bitcnt + 1 }
  if s'.cur.work.bitcnt.toNat < 8 then s'.goto (.recv site (.raise 0)) else s'.goto (.recv site (.ack 0))

/-- receive_byte(send_ack) called from `site`, then `ret` with the byte in SHIFT (41_byte_master R142). -/
def receiveByteStep (site : RecvSite) (sendAck : BitVec 1) (ret : State → State) (p : RecvPos) (s : State) : Out :=
  match p with
  | .ack k => lineStep (ackCode sendAck) (fun j => .recv site (.ack j)) ret k s
  | _ => receiveBitStep site (nextReceiveBit site) p s

/-- SEND_BYTE (41_byte_master R141). -/
def execSendByte (byte : BitVec 8) (s : State) : Out :=
  let s := s.enter (callSendByte .command byte)
  match s.cur.pos with
  | .send .command p => sendByteStep .command (State.goto .finish) p s
  | .finish => .next (s.finish (resultAck s.cur.work.acked))
  | _ => .fault .lostPosition

/-- RECV_BYTE (41_byte_master R142). -/
def execRecvByte (sendAck : BitVec 1) (s : State) : Out :=
  let s := s.enter (callReceiveByte .byteCommand)
  match s.cur.pos with
  | .recv .byteCommand p => receiveByteStep .byteCommand sendAck (State.goto .finish) p s
  | .diagStall => stallDiagStep s
  | .finishStall => stallFinishStep s
  | .finish => .next (s.finish (resultValue s.cur.work.shift))
  | _ => .fault .lostPosition

end Sys2Proof.Machine
end

