-- ==== Sys2Proof/Machine/BufferMaster.lean ====
section
/-! DEFINITION. i2c_buffer_master: one addressed transaction, write or read, with abort on NACK, and the commands WRITE and
READ (42_buffer_master). A failure is reported after stop(), by Diag and finish(FAIL) (60_exceptions R214). -/

namespace Sys2Proof.Machine

/-- After the address byte: stop() and the failure if the address phase has failed, else go on with `go` (42_buffer_master R161,
R162; 70 R242). -/
def afterAddress (go : State → State) (s : State) : State :=
  if s.addressFails then s.goto (.stop .addrNack 0) else go s

/-- The payload loop of write at IDX: send the byte a field gives, read one from the send buffer, or stop()
(42_buffer_master R161). -/
def nextPayload (n : Nat) (data : Nat → Payload) (s : State) : State :=
  if s.cur.work.idx.toNat < n then
    match data s.cur.work.idx.toNat with
    | .field v => callSendByte .payload v s
    | .buffer _ => s.goto .memRead
  else s.goto (.stop .success 0)

/-- After a payload byte: on a NACK stop() and the failure, else the next (42_buffer_master R161). -/
def afterPayload (n : Nat) (data : Nat → Payload) (s : State) : State :=
  if s.cur.work.acked = 0 then s.goto (.stop .dataNack 0)
  else nextPayload n data (s.setWork fun w => { w with idx := w.idx + 1 })

/-- raise Fail(e), its first primitive Diag(e); finish(FAIL) is the next (60_exceptions R214). -/
def raiseFailStep (e : DiagEvent) (s : State) : Out := .next ((s.diag e).goto .finishFail)

/-- finish(STATUS = FAIL) (60_exceptions R214). -/
def failFinishStep (s : State) : Out := .next (s.finish resultFail)

/-- MemRead(TXA + off, 1), immediately before the send_byte of the byte it reads (42_buffer_master R161, 20_memory R62). -/
def memReadStep (src : Payload) (s : State) : Out :=
  match src with
  | .buffer off => s.memRead (bufAddr s.cfg.addrW s.cur.txa off) (callSendByte .payload)
  | .field _ => .fault .lostPosition

/-- write(addr, n, data), then `ret` (42_buffer_master R161). -/
def writeStep (addr : BitVec 7) (n : Nat) (data : Nat → Payload) (ret : State → State) (s : State) : Out :=
  match s.cur.pos with
  | .start k => startStep (callSendByte .address (addrByte addr 0)) k s
  | .send .address p =>
    sendByteStep .address
      (afterAddress fun t => nextPayload n data (t.setWork fun w => { w with idx := 0 })) p s
  | .memRead => memReadStep (data s.cur.work.idx.toNat) s
  | .send .payload p => sendByteStep .payload (afterPayload n data) p s
  | .stop .success k => stopStep .success ret k s
  | .stop .addrNack k => stopStep .addrNack (State.goto .diagAddr) k s
  | .stop .dataNack k => stopStep .dataNack (State.goto .diagData) k s
  | .diagAddr => raiseFailStep (.addrNack addr 0) s
  | .diagData => raiseFailStep (.dataNack s.cur.work.idx.toNat) s
  | .finishFail => failFinishStep s
  | _ => .fault .lostPosition

/-- The payload loop of read at IDX: receive a byte, or stop() (42_buffer_master R162). -/
def nextReceived (n : Nat) (s : State) : State :=
  if s.cur.work.idx.toNat < n then callReceiveByte .payload s else s.goto (.stop .success 0)

/-- MemWrite(RXA + IDX, 1, SHIFT), immediately after the receive_byte that produced the byte (42_buffer_master R162). -/
def memWriteStep (n : Nat) (s : State) : Out :=
  s.memWrite (bufAddr s.cfg.addrW s.cur.rxa s.cur.work.idx.toNat) s.cur.work.shift
    (fun t => nextReceived n (t.setWork fun w => { w with idx := w.idx + 1 }))

/-- read(addr, n, store), then `ret` (42_buffer_master R162). -/
def readStep (addr : BitVec 7) (n : Nat) (ret : State → State) (s : State) : Out :=
  match s.cur.pos with
  | .start k => startStep (callSendByte .address (addrByte addr 1)) k s
  | .send .address p =>
    sendByteStep .address (afterAddress fun t => nextReceived n (t.setWork fun w => { w with idx := 0 })) p s
  | .recv .payload p => receiveByteStep .payload (readAck s.cur.work.idx.toNat n) (State.goto .memWrite) p s
  | .memWrite => memWriteStep n s
  | .stop .success k => stopStep .success ret k s
  | .stop .addrNack k => stopStep .addrNack (State.goto .diagAddr) k s
  | .diagAddr => raiseFailStep (.addrNack addr 1) s
  | .finishFail => failFinishStep s
  | .diagStall => stallDiagStep s
  | .finishStall => stallFinishStep s
  | _ => .fault .lostPosition

/-- WRITE (42_buffer_master R161). -/
def execWrite (addr : BitVec 7) (s : State) : Out :=
  let s := s.enter (State.goto (.start 0))
  match s.cur.pos with
  | .finish => .next (s.finish resultOk)
  | _ => writeStep addr s.cur.len.toNat payloadWrite (State.goto .finish) s

/-- READ (42_buffer_master R162). -/
def execRead (addr : BitVec 7) (s : State) : Out :=
  let s := s.enter (State.goto (.start 0))
  match s.cur.pos with
  | .finish => .next (s.finish resultOk)
  | _ => readStep addr s.cur.len.toNat (State.goto .finish) s

end Sys2Proof.Machine
end

