-- ==== Sys2Proof/Machine/RegisterGateway.lean ====
section
/-! DEFINITION. i2c_register_gateway: the register writes, one transaction, and the register reads, an index write and then a
read (43_register_gateway). -/

namespace Sys2Proof.Machine

/-- WR_REG_IDX (43_register_gateway R191). -/
def execWrRegIdx (addr : BitVec 7) (index : BitVec 8) (s : State) : Out :=
  let s := s.enter (State.goto (.start 0))
  match s.cur.pos with
  | .finish => .next (s.finish resultOk)
  | _ => writeStep addr 1 (payloadIndex index) (State.goto .finish) s

/-- WR_REG (43_register_gateway R192). -/
def execWrReg (addr : BitVec 7) (index value : BitVec 8) (s : State) : Out :=
  let s := s.enter (State.goto (.start 0))
  match s.cur.pos with
  | .finish => .next (s.finish resultOk)
  | _ => writeStep addr 2 (payloadReg index value) (State.goto .finish) s

/-- WR_REGS (43_register_gateway R193): LEN + 1 payload bytes. -/
def execWrRegs (addr : BitVec 7) (index : BitVec 8) (s : State) : Out :=
  let s := s.enter (State.goto (.start 0))
  match s.cur.pos with
  | .finish => .next (s.finish resultOk)
  | _ => writeStep addr (s.cur.len.toNat + 1) (payloadRegs index) (State.goto .finish) s

/-- PHASE <- p, and POS at start() of that phase's transaction (43_register_gateway R194, R195). -/
def beginPhase (p : BitVec 1) (s : State) : State := (s.setWork fun w => { w with phase := p }).goto (.start 0)

/-- A composite read of n bytes in flight: the index write while PHASE is 0, after it the read (43_register_gateway R194,
R195, R196, R197). -/
def registerReadStep (addr : BitVec 7) (index : Byte) (n : Nat) (s : State) : Out :=
  if s.cur.work.phase = 0 then writeStep addr 1 (payloadIndex index) (beginPhase 1) s
  else readStep addr n (State.goto .finish) s

/-- RD_REG (43_register_gateway R194): VALUE is the byte read, which SHIFT holds. -/
def execRdReg (addr : BitVec 7) (index : BitVec 8) (s : State) : Out :=
  let s := s.enter (beginPhase 0)
  match s.cur.pos with
  | .finish => .next (s.finish (resultValue s.cur.work.shift))
  | _ => registerReadStep addr index 1 s

/-- RD_REGS (43_register_gateway R195). -/
def execRdRegs (addr : BitVec 7) (index : BitVec 8) (s : State) : Out :=
  let s := s.enter (beginPhase 0)
  match s.cur.pos with
  | .finish => .next (s.finish resultOk)
  | _ => registerReadStep addr index s.cur.len.toNat s

end Sys2Proof.Machine
end

