-- ==== Sys2Proof/Machine/Reserved.lean ====
section
/-! DEFINITION. The reserved words: every row of the table that 30_encoding R90 calls illegal ends at once in
finish(STATUS = ILLEGAL), with no line event, no delay, no memory access and no diagnostic (60_exceptions R215). -/

namespace Sys2Proof.Machine

/-- finish(STATUS = ILLEGAL), the only primitive of an illegal command (60_exceptions R215). -/
def illegalStep (s : State) : Out :=
  match s.cur.pos with
  | .entry => .next (s.finish resultIllegal)
  | _ => .fault .lostPosition

/-- ILLEGAL, OP 0xE (30_encoding R90, 60_exceptions R215). -/
def execIllegalOpE (s : State) : Out := illegalStep s

/-- ILLEGAL, OP 0xF (30_encoding R90, 60_exceptions R215). -/
def execIllegalOpF (s : State) : Out := illegalStep s

/-- ILLEGAL, RSV = 1 (30_encoding R90, 60_exceptions R215). -/
def execIllegalRsv1 (s : State) : Out := illegalStep s

/-- ILLEGAL, RSV = 2 (30_encoding R90, 60_exceptions R215). -/
def execIllegalRsv2 (s : State) : Out := illegalStep s

/-- ILLEGAL, RSV = 3 (30_encoding R90, 60_exceptions R215). -/
def execIllegalRsv3 (s : State) : Out := illegalStep s

/-- ILLEGAL, RSV = 4 (30_encoding R90, 60_exceptions R215). -/
def execIllegalRsv4 (s : State) : Out := illegalStep s

/-- ILLEGAL, RSV = 5 (30_encoding R90, 60_exceptions R215). -/
def execIllegalRsv5 (s : State) : Out := illegalStep s

/-- ILLEGAL, RSV = 6 (30_encoding R90, 60_exceptions R215). -/
def execIllegalRsv6 (s : State) : Out := illegalStep s

/-- ILLEGAL, RSV = 7 (30_encoding R90, 60_exceptions R215). -/
def execIllegalRsv7 (s : State) : Out := illegalStep s

/-- ILLEGAL, RSV = 8 (30_encoding R90, 60_exceptions R215). -/
def execIllegalRsv8 (s : State) : Out := illegalStep s

/-- ILLEGAL, RSV = 9 (30_encoding R90, 60_exceptions R215). -/
def execIllegalRsv9 (s : State) : Out := illegalStep s

/-- ILLEGAL, RSV = 10 (30_encoding R90, 60_exceptions R215). -/
def execIllegalRsv10 (s : State) : Out := illegalStep s

/-- ILLEGAL, RSV = 11 (30_encoding R90, 60_exceptions R215). -/
def execIllegalRsv11 (s : State) : Out := illegalStep s

/-- ILLEGAL, RSV = 12 (30_encoding R90, 60_exceptions R215). -/
def execIllegalRsv12 (s : State) : Out := illegalStep s

/-- ILLEGAL, RSV = 13 (30_encoding R90, 60_exceptions R215). -/
def execIllegalRsv13 (s : State) : Out := illegalStep s

/-- ILLEGAL, RSV = 14 (30_encoding R90, 60_exceptions R215). -/
def execIllegalRsv14 (s : State) : Out := illegalStep s

/-- ILLEGAL, RSV = 15 (30_encoding R90, 60_exceptions R215). -/
def execIllegalRsv15 (s : State) : Out := illegalStep s

end Sys2Proof.Machine
end

