-- ==== Sys2Proof/Machine/Dispatch.lean ====
section
/-! DEFINITION. exec: one arm per command. -/

namespace Sys2Proof.Machine

/-- One engine step of the command i on the port in focus: the one primitive at POS (10_state R27). -/
def exec (i : Instr) (s : State) : Host.Outcome State Fault Refusal :=
  match i with
  | .init => Sys2Proof.Machine.execInit s
  | .start => Sys2Proof.Machine.execStart s
  | .stop => Sys2Proof.Machine.execStop s
  | .sendBit bit => Sys2Proof.Machine.execSendBit bit s
  | .recvBit => Sys2Proof.Machine.execRecvBit s
  | .sendByte byte => Sys2Proof.Machine.execSendByte byte s
  | .recvByte sendAck => Sys2Proof.Machine.execRecvByte sendAck s
  | .write addr => Sys2Proof.Machine.execWrite addr s
  | .read addr => Sys2Proof.Machine.execRead addr s
  | .wrRegIdx addr index => Sys2Proof.Machine.execWrRegIdx addr index s
  | .wrReg addr index value => Sys2Proof.Machine.execWrReg addr index value s
  | .wrRegs addr index => Sys2Proof.Machine.execWrRegs addr index s
  | .rdReg addr index => Sys2Proof.Machine.execRdReg addr index s
  | .rdRegs addr index => Sys2Proof.Machine.execRdRegs addr index s
  | .illegalOpE => Sys2Proof.Machine.execIllegalOpE s
  | .illegalOpF => Sys2Proof.Machine.execIllegalOpF s
  | .illegalRsv1 => Sys2Proof.Machine.execIllegalRsv1 s
  | .illegalRsv2 => Sys2Proof.Machine.execIllegalRsv2 s
  | .illegalRsv3 => Sys2Proof.Machine.execIllegalRsv3 s
  | .illegalRsv4 => Sys2Proof.Machine.execIllegalRsv4 s
  | .illegalRsv5 => Sys2Proof.Machine.execIllegalRsv5 s
  | .illegalRsv6 => Sys2Proof.Machine.execIllegalRsv6 s
  | .illegalRsv7 => Sys2Proof.Machine.execIllegalRsv7 s
  | .illegalRsv8 => Sys2Proof.Machine.execIllegalRsv8 s
  | .illegalRsv9 => Sys2Proof.Machine.execIllegalRsv9 s
  | .illegalRsv10 => Sys2Proof.Machine.execIllegalRsv10 s
  | .illegalRsv11 => Sys2Proof.Machine.execIllegalRsv11 s
  | .illegalRsv12 => Sys2Proof.Machine.execIllegalRsv12 s
  | .illegalRsv13 => Sys2Proof.Machine.execIllegalRsv13 s
  | .illegalRsv14 => Sys2Proof.Machine.execIllegalRsv14 s
  | .illegalRsv15 => Sys2Proof.Machine.execIllegalRsv15 s

end Sys2Proof.Machine
end

