-- ==== Sys2Proof/Machine/Step.lean ====
section
/-! DEFINITION. One step of the machine: one of the agents moves (00_scope R6, R9). -/

namespace Sys2Proof.Machine

/-- The sequencer of port p moves: one primitive of the command in flight, decoded from the latched word (10_state R27,
30_encoding R92). With no command in flight it waits for the caller (70 R241). -/
def engineStep (p : Nat) (s : State) : Out :=
  if (s.focus p).cur.busy then exec (decode (s.focus p).cur.cmd) (s.focus p) else .next (s.focus p)

/-- An agent moves. -/
def moveStep (m : Mover) (s : State) : Out :=
  match m with
  | .engine p => engineStep p s
  | .host => hostStep s

/-- One step: the agent whose move it is moves; with none able to, the engine waits for the caller's first command
(70 R241). -/
def step (s : State) : Host.Outcome State Fault Refusal :=
  match s.mover with
  | none => .next s
  | some m => moveStep m s.picked

/-- s with the word w of spec/opcode_table.json placed where step fetches its next command: on the port in focus, just
accepted, its sequencer the next to move (log 11). -/
def State.withFetchWord (s : State) (_nbits w : Nat) : State := s.load (BitVec.ofNat 32 w)

end Sys2Proof.Machine
end

