-- ==== Sys2Proof/Machine/Assembler.lean ====
section
/-! DEFINITION. The assembler of 30_encoding R98: a command's word and operands, and the reading of a program's text, given as
the list of its characters. -/

namespace Sys2Proof

open Sys2Proof.Machine

/-- The command of a line that R98 does not refuse (30_encoding R98). -/
def AsmCmd.instr : AsmCmd → Instr
  | .init => .init
  | .start => .start
  | .stop => .stop
  | .sendBit b => .sendBit (BitVec.ofNat 1 b)
  | .recvBit => .recvBit
  | .sendByte b => .sendByte (BitVec.ofNat 8 b)
  | .recvByte a => .recvByte (if a then 1 else 0)
  | .write a _ _ => .write (BitVec.ofNat 7 a)
  | .read a _ _ => .read (BitVec.ofNat 7 a)
  | .wrRegIdx a i => .wrRegIdx (BitVec.ofNat 7 a) (BitVec.ofNat 8 i)
  | .wrReg a i v => .wrReg (BitVec.ofNat 7 a) (BitVec.ofNat 8 i) (BitVec.ofNat 8 v)
  | .wrRegs a i _ _ => .wrRegs (BitVec.ofNat 7 a) (BitVec.ofNat 8 i)
  | .rdReg a i _ => .rdReg (BitVec.ofNat 7 a) (BitVec.ofNat 8 i)
  | .rdRegs a i _ _ => .rdRegs (BitVec.ofNat 7 a) (BitVec.ofNat 8 i)

/-- LEN, TXA and RXA of a line, the operands outside the word (30_encoding R98); those it does not give are 0. -/
def AsmCmd.operands : AsmCmd → BitVec 16 × Nat × Nat
  | .init | .start | .stop | .sendBit _ | .recvBit | .sendByte _ | .recvByte _ | .wrRegIdx _ _ | .wrReg _ _ _ => (0, 0, 0)
  | .write _ n t | .wrRegs _ _ n t => (BitVec.ofNat 16 n, t, 0)
  | .read _ n r | .rdRegs _ _ n r => (BitVec.ofNat 16 n, 0, r)
  | .rdReg _ _ r => (0, 0, r)

/-- Assemble a line: none where R98 refuses it. -/
def assemble (c : AsmCmd) : Option Bundle :=
  if c.wellFormed then
    some { cmd := encode c.instr, len := c.operands.1, txa := c.operands.2.1, rxa := c.operands.2.2 }
  else none

/-! The text of a program. -/

/-- A token: a word in lower case, since mnemonics are case-insensitive, a comma, a colon. -/
inductive AsmToken where
  | word (w : List Char)
  | comma
  | colon
  deriving DecidableEq, Repr

/-- Put a word collected so far, in reverse, before the tokens that follow it. -/
def flushWord (w : List Char) (ts : List AsmToken) : List AsmToken := if w.isEmpty then ts else .word w.reverse :: ts

/-- The tokens of a line up to its comment. -/
def tokens (w : List Char) : List Char → List AsmToken
  | [] => flushWord w []
  | c :: t =>
    if c = ';' then flushWord w []
    else if c = ',' then flushWord w (.comma :: tokens [] t)
    else if c = ':' then flushWord w (.colon :: tokens [] t)
    else if c = ' ' ∨ c = '\t' ∨ c = '\r' then flushWord w (tokens [] t)
    else tokens (c.toLower :: w) t

/-- The lines of a text, the line collected so far, in reverse, first. -/
def textLines (l : List Char) : List Char → List (List Char)
  | [] => [l.reverse]
  | c :: t => if c = '\n' then l.reverse :: textLines [] t else textLines (c :: l) t

/-- A digit's value in a base up to 16, in lower case. -/
def digitValue (base : Nat) (c : Char) : Option Nat :=
  let v := if 48 ≤ c.toNat ∧ c.toNat ≤ 57 then c.toNat - 48
    else if 97 ≤ c.toNat ∧ c.toNat ≤ 102 then c.toNat - 87 else 16
  if v < base then some v else none

/-- The value of digits, the value so far first. -/
def digitsValue (base acc : Nat) : List Char → Option Nat
  | [] => some acc
  | c :: t => (digitValue base c).bind fun v => digitsValue base (acc * base + v) t

/-- A number, decimal or 0x hexadecimal. -/
def numberOf : List Char → Option Nat
  | [] => none
  | '0' :: 'x' :: c :: t => digitsValue 16 0 (c :: t)
  | c :: t => digitsValue 10 0 (c :: t)

/-- The operands of a line, words with a comma between one and the next. -/
def operandWords : List AsmToken → Option (List (List Char))
  | [] => some []
  | [.word w] => some [w]
  | .word w :: .comma :: .word v :: t => (operandWords (.word v :: t)).map (w :: ·)
  | _ => none

/-- Numbers of all words, none if one is no number. -/
def numbersOf : List (List Char) → Option (List Nat)
  | [] => some []
  | w :: t => (numberOf w).bind fun n => (numbersOf t).map (n :: ·)

/-- A command line, its mnemonic given and its operands read (30_encoding R98's table). -/
def asmCommand (m : List Char) (ops : List (List Char)) : Option AsmCmd :=
  if m = "recv_byte".toList then
    if ops = ["ack".toList] then some (.recvByte true)
    else if ops = ["nack".toList] then some (.recvByte false)
    else none
  else
    (numbersOf ops).bind fun ns =>
      match ns with
      | [] =>
        if m = "init".toList then some .init
        else if m = "start".toList then some .start
        else if m = "stop".toList then some .stop
        else if m = "recv_bit".toList then some .recvBit
        else none
      | [a] =>
        if m = "send_bit".toList then some (.sendBit a)
        else if m = "send_byte".toList then some (.sendByte a)
        else none
      | [a, b] => if m = "wr_reg_idx".toList then some (.wrRegIdx a b) else none
      | [a, b, c] =>
        if m = "write".toList then some (.write a b c)
        else if m = "read".toList then some (.read a b c)
        else if m = "wr_reg".toList then some (.wrReg a b c)
        else if m = "rd_reg".toList then some (.rdReg a b c)
        else none
      | [a, b, c, d] =>
        if m = "wr_regs".toList then some (.wrRegs a b c d)
        else if m = "rd_regs".toList then some (.rdRegs a b c d)
        else none
      | _ => none

/-- A line of a program. -/
inductive AsmLine where
  | blank
  /-- `.port p`: the commands act on port p. -/
  | port (p : Nat)
  /-- `.mem a: b0, b1, ...`: bytes of caller memory before the program runs. -/
  | mem (a : Nat) (bs : List Nat)
  | command (c : AsmCmd)
  deriving DecidableEq, Repr

/-- Read one line. -/
def asmLine (line : List Char) : Option AsmLine :=
  match tokens [] line with
  | [] => some .blank
  | .word w :: t =>
    if w = ".port".toList then
      match t with
      | [.word p] => (numberOf p).map .port
      | _ => none
    else if w = ".mem".toList then
      match t with
      | .word a :: .colon :: bs =>
        (numberOf a).bind fun a => ((operandWords bs).bind numbersOf).bind fun ns =>
          if ns.all asmByteOk then some (.mem a ns) else none
      | _ => none
    else ((operandWords t).bind (asmCommand w)).bind fun c => if c.wellFormed then some (.command c) else none
  | _ => none

/-- Read a whole text, none if a line is refused. -/
def asmProgram (text : List Char) : Option (List AsmLine) := (textLines [] text).mapM asmLine

end Sys2Proof
end

