-- ==== Sys2Proof/Machine/Wire.lean ====
section
/-! DEFINITION. The wire encoding (30_encoding R80 to R85): what a port's events put on the bus, as START, STOP and data
bits, and the events each procedure performs. -/

namespace Sys2Proof.Machine

/-- What the bus carries (30_encoding R80). -/
inductive WireSym where
  /-- SDA from 1 to 0 while SCL is 1 (30_encoding R82). -/
  | start
  /-- SDA from 0 to 1 while SCL is 1 (30_encoding R82). -/
  | stop
  /-- The SDA level of one SCL high phase (30_encoding R81). -/
  | bit (v : Level)
  deriving DecidableEq, Repr

/-- A reader of the bus: the drive levels; whether the SCL high phase it is in began with a rising edge and has formed no
condition; and the SDA level the engine last read since it last set SCL to 0 (log 16). -/
structure WireReader where
  scl : Level
  sda : Level
  plain : Bool
  heard : Option Level
  deriving DecidableEq, Repr

/-- What one event puts on the bus. -/
def WireReader.symbols (w : WireReader) : Event → List WireSym
  | .w .sda v =>
    if w.scl = 1 then if w.sda = 1 ∧ v = 0 then [.start] else if w.sda = 0 ∧ v = 1 then [.stop] else [] else []
  | .w .scl v => if w.scl = 1 ∧ v = 0 ∧ w.plain then [.bit (w.sda &&& w.heard.getD 1)] else []
  | .r _ _ | .d _ | .mr _ _ | .mw _ _ | .g _ => []

/-- The reader after one event. -/
def WireReader.after (w : WireReader) : Event → WireReader
  | .w .sda v => { w with sda := v, plain := w.plain && !(decide (w.scl = 1) && decide (w.sda ≠ v)) }
  | .w .scl v =>
    if v = 1 then { w with scl := 1, plain := w.plain || decide (w.scl = 0) }
    else { w with scl := 0, plain := false, heard := none }
  | .r .sda v => { w with heard := some v }
  | .r .scl _ | .d _ | .mr _ _ | .mw _ _ | .g _ => w

/-- What a list of events puts on the bus. -/
def WireReader.read (w : WireReader) : List Event → List WireSym
  | [] => []
  | e :: t => w.symbols e ++ (w.after e).read t

/-- A reader that finds the bus idle (00_scope R12). -/
def WireReader.idle : WireReader := { scl := 1, sda := 1, plain := false, heard := none }

/-- A byte frame: eight data bits, most significant first, and the acknowledge bit (30_encoding R83). -/
def frameSyms (d : Byte) (ack : Level) : List WireSym := (List.range 8).map (fun k => .bit (wireBit d k)) ++ [.bit ack]

/-- The events of a straight line of pseudocode. -/
def lineEvents (tUs : Nat) (code : List LineAct) : List Event := code.map (LineAct.event tUs)

/-- The events of send_byte(d), its acknowledge sample v (41_byte_master R141). -/
def sendByteEvents (tUs : Nat) (d : Byte) (v : Level) : List Event :=
  (List.range 8).flatMap (fun k => lineEvents tUs (sendBitCode (wireBit d k)))
    ++ (lineEvents tUs releaseCode ++ (.r .sda v :: lineEvents tUs pulse9Code))

/-- The events of receive_bit, k polls reading 0 before the one reading 1, then the bit b (40_bit_master R115). -/
def receiveBitEvents (tUs k : Nat) (b : Level) : List Event :=
  lineEvents tUs raiseCode ++ (List.replicate k (.r .scl 0) ++ (.r .scl 1 :: .r .sda b :: lineEvents tUs lowerCode))

/-- The events of receive_byte, of each bit the polls reading 0 and its level (41_byte_master R142). -/
def receiveByteEvents (tUs : Nat) (bits : List (Nat × Level)) (sendAck : BitVec 1) : List Event :=
  bits.flatMap (fun b => receiveBitEvents tUs b.1 b.2) ++ lineEvents tUs (ackCode sendAck)

/-- The byte eight received bits assemble to (41_byte_master R142, R143). -/
def assembled (bits : List (Nat × Level)) : Byte := bits.foldl (fun d b => shiftIn d b.2) 0

/-- The levels the environment presents in one receive_bit: k polls at 0, one at 1, the bit (40_bit_master R115). -/
def receiveBitEnv (b : Nat × Level) : List Level := List.replicate b.1 0 ++ [1, b.2]

/-- The events of start() (40_bit_master R112). -/
def startEvents (tUs : Nat) : List Event := lineEvents tUs startCode
/-- The events of stop() (40_bit_master R113). -/
def stopEvents (tUs : Nat) : List Event := lineEvents tUs stopCode

/-- The events of one byte of a write's payload: the read of the send buffer, where it comes from there, and the send
(42_buffer_master R161). -/
def payloadEvents (tUs : Nat) (addrOf : Nat → Nat) (src : Payload) (d : Byte) (v : Level) : List Event :=
  match src with
  | .field _ => sendByteEvents tUs d v
  | .buffer off => .mr (addrOf off) d :: sendByteEvents tUs d v

/-- The events of the n payload bytes of a write, each acknowledged, d their values (42_buffer_master R161). -/
def payloadsEvents (tUs : Nat) (addrOf : Nat → Nat) (data : Nat → Payload) (d : Nat → Byte) (n : Nat) : List Event :=
  (List.range n).flatMap fun j => payloadEvents tUs addrOf (data j) (d j) 0

/-- The events of a write transaction of n payload bytes, every byte acknowledged (30_encoding R85, 42_buffer_master
R161). -/
def writeEvents (tUs : Nat) (addrOf : Nat → Nat) (addr : BitVec 7) (data : Nat → Payload) (d : Nat → Byte) (n : Nat) :
    List Event :=
  startEvents tUs ++ (sendByteEvents tUs (addrByte addr 0) 0 ++ (payloadsEvents tUs addrOf data d n ++ stopEvents tUs))

/-- The events of a transaction whose address phase fails, v its acknowledge sample: 1, or 0 on a bus without pull-ups
(42_buffer_master R161, R162; 60_exceptions R211; 70 R242). -/
def addrNackEvents (tUs : Nat) (addr : BitVec 7) (rw : BitVec 1) (v : Level) : List Event :=
  startEvents tUs ++ (sendByteEvents tUs (addrByte addr rw) v ++ (stopEvents tUs ++ [.g (.addrNack addr rw)]))

/-- The events of a write transaction whose payload byte k is the first not acknowledged (42_buffer_master R161, 60_exceptions
R212, R217). -/
def dataNackEvents (tUs : Nat) (addrOf : Nat → Nat) (addr : BitVec 7) (data : Nat → Payload) (d : Nat → Byte) (k : Nat) :
    List Event :=
  startEvents tUs ++ (sendByteEvents tUs (addrByte addr 0) 0 ++ (payloadsEvents tUs addrOf data d k ++
    (payloadEvents tUs addrOf (data k) (d k) 1 ++ (stopEvents tUs ++ [.g (.dataNack k)]))))

/-- The events of the n bytes of a read, of each byte its eight bits (42_buffer_master R162). -/
def receivedEvents (tUs : Nat) (addrOf : Nat → Nat) (bs : Nat → List (Nat × Level)) (n : Nat) : List Event :=
  (List.range n).flatMap fun j => receiveByteEvents tUs (bs j) (readAck j n) ++ [.mw (addrOf j) (assembled (bs j))]

/-- The events of a read transaction of n bytes (30_encoding R85, 42_buffer_master R162). -/
def readEvents (tUs : Nat) (addrOf : Nat → Nat) (addr : BitVec 7) (bs : Nat → List (Nat × Level)) (n : Nat) : List Event :=
  startEvents tUs ++ (sendByteEvents tUs (addrByte addr 1) 0 ++ (receivedEvents tUs addrOf bs n ++ stopEvents tUs))

/-- The levels the environment presents in a read of n bytes: the address acknowledged, then the bits. -/
def readEnv (bs : Nat → List (Nat × Level)) (n : Nat) : List Level :=
  0 :: (List.range n).flatMap fun j => (bs j).flatMap receiveBitEnv

/-- Caller memory after the n bytes of a read are stored (20_memory R52). -/
def receivedMem (addrOf : Nat → Nat) (bs : Nat → List (Nat × Level)) (n : Nat) (m : List Host.Cell) : List Host.Cell :=
  (List.range n).foldl (fun m j => memPut (addrOf j) (assembled (bs j)) m) m

/-- How many Delay events a list holds (70 R250). -/
def delays (evs : List Event) : Nat := evs.countP fun e => match e with | .d _ => true | _ => false

/-- The events but the reads of the send buffer: where the bytes of a write come from shows only there (30_encoding R99). -/
def exceptMemReads (evs : List Event) : List Event :=
  evs.filter fun e => match e with | .mr _ _ => false | .w _ _ | .r _ _ | .d _ | .mw _ _ | .g _ => true

end Sys2Proof.Machine
end

