-- ==== Sys2Proof/Safety.lean ====
section
/-! DEFINITION. What the statements speak of: a run of one command, the positions that belong to a command, the invariant of
the machine, and the line levels a transaction keeps (40_bit_master R117, R119; 70 R243). -/

namespace Sys2Proof.Machine

/-- n engine steps of one command on the port in focus, up to the first fault. -/
def execN (i : Instr) : Nat → State → Out
  | 0, s => .next s
  | n + 1, s =>
    match exec i s with
    | .next t => execN i n t
    | .fault f => .fault f
    | .refused r => .refused r

/-- The next n levels the bus environment of the port in focus presents, of its `env` and then free ones (10_state R22, R23;
log 2). -/
def nextLevels : Nat → State → List Level
  | 0, _ => []
  | n + 1, s => s.envLevel :: nextLevels n s.drawn

/-- The port in focus has ended a command: from s to t its history grew by these events, RESULT is r, BUSY is 0, the lines
are driven at these levels; its latched operands, which the engine does not write (10_state R26, R35; that they stand after
finish, where they have no meaning, is the model's choice, log 7), the other ports and everything else of the engine are as
they were. -/
def Ended (s t : State) (evs : List Event) (scl sda : Level) (r : Word) : Prop :=
  t.cur.history = s.cur.history ++ evs ∧ t.cur.result = r ∧ t.cur.busy = false ∧ t.cur.completed = true
    ∧ t.cur.scl = scl ∧ t.cur.sda = sda
    ∧ t.cur.cmd = s.cur.cmd ∧ t.cur.len = s.cur.len ∧ t.cur.txa = s.cur.txa ∧ t.cur.rxa = s.cur.rxa
    ∧ t.sel = s.sel ∧ t.others = s.others ∧ t.cfg = s.cfg ∧ t.writable = s.writable
    ∧ t.inbox = s.inbox ∧ t.replies = s.replies ∧ t.turn = s.turn

/-- The line c assembles exactly when `ok`, to a word of these fields, its RSV 0, and to these operands. -/
def Assembles (c : AsmCmd) (ok : Prop) (op f addr b0 b1 len txa rxa : Nat) : Prop :=
  (ok → ∃ b : Bundle, assemble c = some b ∧ (b.cmd.extractLsb' 0 4).toNat = op ∧ (b.cmd.extractLsb' 4 1).toNat = f
    ∧ (b.cmd.extractLsb' 5 7).toNat = addr ∧ (b.cmd.extractLsb' 12 8).toNat = b0 ∧ (b.cmd.extractLsb' 20 8).toNat = b1
    ∧ (b.cmd.extractLsb' 28 4).toNat = 0 ∧ b.len.toNat = len ∧ b.txa = txa ∧ b.rxa = rxa)
  ∧ (¬ ok → assemble c = none)

/-! The commands by shape. -/

/-- The commands made of Buffer Transfers: WRITE, READ and the register commands (00_scope R2). -/
def isTransaction : Instr → Bool
  | .write _ | .read _ | .wrRegIdx _ _ | .wrReg _ _ _ | .wrRegs _ _ | .rdReg _ _ | .rdRegs _ _ => true
  | .init | .start | .stop | .sendBit _ | .recvBit | .sendByte _ | .recvByte _
  | .illegalOpE | .illegalOpF | .illegalRsv1 | .illegalRsv2 | .illegalRsv3 | .illegalRsv4 | .illegalRsv5
  | .illegalRsv6 | .illegalRsv7 | .illegalRsv8 | .illegalRsv9 | .illegalRsv10 | .illegalRsv11 | .illegalRsv12
  | .illegalRsv13 | .illegalRsv14 | .illegalRsv15 => false

/-- The device address of a Buffer Transfer command (30_encoding R89). -/
def deviceAddr : Instr → BitVec 7
  | .write a | .read a | .wrRegIdx a _ | .wrReg a _ _ | .wrRegs a _ | .rdReg a _ | .rdRegs a _ => a
  | .init | .start | .stop | .sendBit _ | .recvBit | .sendByte _ | .recvByte _
  | .illegalOpE | .illegalOpF | .illegalRsv1 | .illegalRsv2 | .illegalRsv3 | .illegalRsv4 | .illegalRsv5
  | .illegalRsv6 | .illegalRsv7 | .illegalRsv8 | .illegalRsv9 | .illegalRsv10 | .illegalRsv11 | .illegalRsv12
  | .illegalRsv13 | .illegalRsv14 | .illegalRsv15 => 0

/-- The write transaction that is the whole of a command, LEN given: its payload length and where each byte comes from
(42_buffer_master R161, 43_register_gateway R191 to R193); none for every other command. -/
def writePlan (i : Instr) (len : BitVec 16) : Option (Nat × (Nat → Payload)) :=
  match i with
  | .write _ => some (len.toNat, payloadWrite)
  | .wrRegIdx _ index => some (1, payloadIndex index)
  | .wrReg _ index value => some (2, payloadReg index value)
  | .wrRegs _ index => some (len.toNat + 1, payloadRegs index)
  | .init | .start | .stop | .sendBit _ | .recvBit | .sendByte _ | .recvByte _ | .read _ | .rdReg _ _ | .rdRegs _ _
  | .illegalOpE | .illegalOpF | .illegalRsv1 | .illegalRsv2 | .illegalRsv3 | .illegalRsv4 | .illegalRsv5
  | .illegalRsv6 | .illegalRsv7 | .illegalRsv8 | .illegalRsv9 | .illegalRsv10 | .illegalRsv11 | .illegalRsv12
  | .illegalRsv13 | .illegalRsv14 | .illegalRsv15 => none

/-- The byte a payload source gives, none where the send buffer holds no value (43_register_gateway R190, 70 R246). -/
def payloadByte (s : State) (src : Payload) : Option Byte :=
  match src with
  | .field v => some v
  | .buffer off => memFind (bufAddr s.cfg.addrW s.cur.txa off) s.mem

/-- No receive_bit of these stalls: each has fewer polls reading 0 than a finite STRETCH_LIMIT (40_bit_master R116). -/
def withinLimit (s : State) (bits : List (Nat × Level)) : Prop :=
  ∀ m, s.cfg.stretchLimit = some m → ∀ b ∈ bits, b.1 < m

/-! The positions that belong to a command, with the ranges 10_state R28 gives BITCNT and IDX. -/

/-- A position of send_byte, BITCNT bits of the byte done. -/
def sendOwns (w : Work) : SendPos → Bool
  | .bit k => k < 5 && w.bitcnt.toNat < 8
  | .release k => k < 3 && w.bitcnt.toNat = 8
  | .sample => w.bitcnt.toNat = 8
  | .pulse k => k < 4 && w.bitcnt.toNat = 8

/-- A position of receive_byte, BITCNT bits of the byte done. -/
def recvOwns (w : Work) : RecvPos → Bool
  | .raise k => k < 3 && w.bitcnt.toNat < 8
  | .poll | .sample => w.bitcnt.toNat < 8
  | .lower k => k < 2 && w.bitcnt.toNat < 8
  | .ack k => k < 5 && w.bitcnt.toNat = 8

/-- A position of the command RECV_BIT's receive_bit. -/
def recvBitOwns : RecvPos → Bool
  | .raise k => k < 3
  | .poll | .sample => true
  | .lower k => k < 2
  | .ack _ => false

/-- A position of a write of n payload bytes. -/
def writeOwns (n : Nat) (data : Nat → Payload) (q : PortState) : Bool :=
  match q.pos with
  | .start k => k < 8
  | .send .address p => sendOwns q.work p
  | .memRead => q.work.idx.toNat < n && (match data q.work.idx.toNat with | .buffer _ => true | .field _ => false)
  | .send .payload p => sendOwns q.work p && q.work.idx.toNat < n
  | .stop .success k | .stop .addrNack k => k < 6
  | .stop .dataNack k => k < 6 && q.work.idx.toNat < n
  | .diagAddr | .finishFail => true
  | .diagData => q.work.idx.toNat < n
  | .entry | .init _ | .stop .command _ | .sendBit _ | .send .command _ | .recv _ _ | .memWrite | .diagStall | .finishStall
  | .finish => false

/-- A position of a read of n bytes. -/
def readOwns (n : Nat) (q : PortState) : Bool :=
  match q.pos with
  | .start k => k < 8
  | .send .address p => sendOwns q.work p
  | .recv .payload p => recvOwns q.work p && q.work.idx.toNat < n
  | .memWrite => q.work.idx.toNat < n
  | .stop .success k | .stop .addrNack k => k < 6
  | .diagAddr | .finishFail | .diagStall | .finishStall => true
  | .entry | .init _ | .stop .command _ | .stop .dataNack _ | .sendBit _ | .send .command _ | .send .payload _
  | .recv .bitCommand _ | .recv .byteCommand _ | .memRead | .diagData | .finish => false

/-- A position of a command that is one write transaction. -/
def writeCommandOwns (n : Nat) (data : Nat → Payload) (q : PortState) : Bool :=
  q.pos = .entry || q.pos = .finish || writeOwns n data q

/-- A position of a composite read of n bytes: the index write in phase 0, the read and the finish in phase 1. -/
def registerReadOwns (index : Byte) (n : Nat) (q : PortState) : Bool :=
  q.pos = .entry || (if q.work.phase = 0 then writeOwns 1 (payloadIndex index) q else q.pos = .finish || readOwns n q)

/-- Is POS a position of the command's pseudocode (10_state R27)? -/
def owns (i : Instr) (q : PortState) : Bool :=
  match i with
  | .init => (match q.pos with | .entry | .finish => true | .init k => k < 2 | _ => false)
  | .start => (match q.pos with | .entry | .finish => true | .start k => k < 8 | _ => false)
  | .stop => (match q.pos with | .entry | .finish => true | .stop .command k => k < 6 | _ => false)
  | .sendBit _ => (match q.pos with | .entry | .finish => true | .sendBit k => k < 5 | _ => false)
  | .recvBit =>
    (match q.pos with
      | .entry | .finish | .diagStall | .finishStall => true
      | .recv .bitCommand p => recvBitOwns p
      | _ => false)
  | .sendByte _ => (match q.pos with | .entry | .finish => true | .send .command p => sendOwns q.work p | _ => false)
  | .recvByte _ =>
    (match q.pos with
      | .entry | .finish | .diagStall | .finishStall => true
      | .recv .byteCommand p => recvOwns q.work p
      | _ => false)
  | .write _ => writeCommandOwns q.len.toNat payloadWrite q
  | .read _ => q.pos = .entry || q.pos = .finish || readOwns q.len.toNat q
  | .wrRegIdx _ index => writeCommandOwns 1 (payloadIndex index) q
  | .wrReg _ index value => writeCommandOwns 2 (payloadReg index value) q
  | .wrRegs _ index => writeCommandOwns (q.len.toNat + 1) (payloadRegs index) q
  | .rdReg _ index => registerReadOwns index 1 q
  | .rdRegs _ index => registerReadOwns index q.len.toNat q
  | .illegalOpE | .illegalOpF | .illegalRsv1 | .illegalRsv2 | .illegalRsv3 | .illegalRsv4 | .illegalRsv5
  | .illegalRsv6 | .illegalRsv7 | .illegalRsv8 | .illegalRsv9 | .illegalRsv10 | .illegalRsv11 | .illegalRsv12
  | .illegalRsv13 | .illegalRsv14 | .illegalRsv15 => q.pos = .entry

/-- The address a command at this position accesses in caller memory, if it does (20_memory R52). -/
def accessAddr (i : Instr) (s : State) : Option Nat :=
  match s.cur.pos with
  | .memRead =>
    match writePlan i s.cur.len with
    | some (_, data) =>
      match data s.cur.work.idx.toNat with
      | .buffer off => some (bufAddr s.cfg.addrW s.cur.txa off)
      | .field _ => none
    | none => none
  | .memWrite => some (bufAddr s.cfg.addrW s.cur.rxa s.cur.work.idx.toNat)
  | _ => none

/-- Does the caller provide the byte the command accesses next, if any (70 R246)? -/
def accessProvided (i : Instr) (s : State) : Bool :=
  match accessAddr i s with
  | none => true
  | some a => if s.cur.pos = .memRead then s.mayRead a else s.mayWrite a

/-! The invariant. -/

/-- Before a GetLine the engine's own drive of the line is 1, and the steps that lead to it (10_state R23, 40 R115, 41
R141). -/
def readReady (q : PortState) : Bool :=
  match q.pos with
  | .send _ (.release k) => k = 0 || q.sda = 1
  | .send _ .sample => q.sda = 1
  | .recv _ (.raise k) => (k = 0 || q.sda = 1) && (k ≤ 1 || q.scl = 1)
  | .recv _ .poll | .recv _ .sample => q.sda = 1 && q.scl = 1
  | _ => true

/-- What holds of every port: RESULT[31:11] is 0, TXA and RXA have ADDR_W bits, and while a command is in flight POS is one
of its positions and a read is made with the line released. -/
def portInv (addrW : Nat) (q : PortState) : Bool :=
  (q.result.extractLsb' 11 21 = 0) && q.txa < 2 ^ addrW && q.rxa < 2 ^ addrW
    && (!q.busy || (owns (decode q.cmd) q && readReady q))

/-- The invariant of the machine: caller memory is in canonical form and within its address space, the ports not in focus are
listed by rising handle without the one in focus, and every port meets `portInv`. -/
def inv (s : State) : Bool :=
  Memory.wf s.mem && s.mem.all (fun c => c.1 < 2 ^ s.cfg.addrW)
    && kvRising none s.others && (kvFind s.sel s.others).isNone
    && portInv s.cfg.addrW s.cur && s.others.all (fun e => portInv s.cfg.addrW e.2)

/-! The line levels of a transaction (40_bit_master R117, R119; 70 R243). -/

/-- The levels at primitive k of start(): entered with SCL at 0 or SDA at 1, so that raising SDA forms no STOP. -/
def startLevels (k : Nat) (q : PortState) : Bool :=
  match k with
  | 0 => q.scl = 0 || q.sda = 1
  | 1 | 2 => q.sda = 1
  | 3 | 4 => q.scl = 1 && q.sda = 1
  | 5 | 6 => q.scl = 1 && q.sda = 0
  | _ => q.scl = 0 && q.sda = 0

/-- The levels at primitive k of stop(). -/
def stopLevels (k : Nat) (q : PortState) : Bool :=
  match k with
  | 0 => q.scl = 0
  | 1 | 2 => q.scl = 0 && q.sda = 0
  | 3 | 4 => q.scl = 1 && q.sda = 0
  | _ => q.scl = 1 && q.sda = 1

/-- The levels in send_byte. -/
def sendLevels (q : PortState) : SendPos → Bool
  | .bit k => if k ≤ 2 then q.scl = 0 else q.scl = 1
  | .release k => q.scl = 0 && (k = 0 || q.sda = 1)
  | .sample => q.scl = 0 && q.sda = 1
  | .pulse k => q.sda = 1 && (if k ≤ 1 then q.scl = 0 else q.scl = 1)

/-- The levels in receive_byte. -/
def recvLevels (q : PortState) : RecvPos → Bool
  | .raise k => if k ≤ 1 then q.scl = 0 && (k = 0 || q.sda = 1) else q.scl = 1 && q.sda = 1
  | .poll | .sample => q.scl = 1 && q.sda = 1
  | .lower k => q.sda = 1 && (if k = 0 then q.scl = 1 else q.scl = 0)
  | .ack k => if k ≤ 2 then q.scl = 0 else q.scl = 1

/-- The levels a Buffer Transfer command keeps at each of its positions: SCL at 0 at the entry of every send_byte,
receive_byte and stop (42_buffer_master R160), both lines released from the end of stop() on (R164). -/
def transactionLevels (q : PortState) : Bool :=
  match q.pos with
  | .entry => q.scl = 0 || q.sda = 1
  | .start k => startLevels k q
  | .send _ p => sendLevels q p
  | .recv _ p => recvLevels q p
  | .memRead | .memWrite => q.scl = 0
  | .stop _ k => stopLevels k q
  | .diagAddr | .diagData | .diagStall | .finishFail | .finishStall | .finish => q.scl = 1 && q.sda = 1
  | .init _ | .sendBit _ => true

/-- The SDA change that forms START or STOP: primitive 4 of start(), primitive 4 of stop() (40_bit_master R112, R113). -/
def formsCondition : Pos → Bool
  | .start k => k = 4
  | .stop _ k => k = 4
  | .entry | .init _ | .sendBit _ | .send _ _ | .recv _ _ | .memRead | .memWrite | .diagAddr | .diagData | .diagStall
  | .finishFail | .finishStall | .finish => false

end Sys2Proof.Machine
end

