-- ==== Sys2Proof/Certificates/Slice0/Obligations.lean ====
section
/-! DEFINITION. The statements for the provers, each formalising what the rules it names say. -/

open Sys2Proof Sys2Proof.Machine

/-! Encodings. -/

/-- 30_encoding R87, R88, R92: every command, with every value of its fields, is decoded from the word it is encoded as. -/
def Obligations.DecodeOfEncode : Prop := ∀ i : Instr, i.wellFormed = true → decode (encode i) = i

/-- 30_encoding R92, R87: decode, run on any of the 2^32 words: a word with RSV not 0 or OP 0xE or 0xF is illegal, every other
word is the row its OP names, its operands CMD[4], CMD[11:5], CMD[19:12] and CMD[27:20] as they stand in the word. -/
def Obligations.DecodeFollowsThePseudocode : Prop :=
  ∀ w : Word,
    ((decode w).reserved = true ↔ (w.extractLsb' 28 4 ≠ 0 ∨ w.extractLsb' 0 4 = 0xE ∨ w.extractLsb' 0 4 = 0xF))
    ∧ (w.extractLsb' 28 4 = 0 →
      (w.extractLsb' 0 4 = 0x0 → decode w = .init) ∧ (w.extractLsb' 0 4 = 0x1 → decode w = .start)
      ∧ (w.extractLsb' 0 4 = 0x2 → decode w = .stop) ∧ (w.extractLsb' 0 4 = 0x3 → decode w = .sendBit (w.extractLsb' 4 1))
      ∧ (w.extractLsb' 0 4 = 0x4 → decode w = .recvBit)
      ∧ (w.extractLsb' 0 4 = 0x5 → decode w = .sendByte (w.extractLsb' 12 8))
      ∧ (w.extractLsb' 0 4 = 0x6 → decode w = .recvByte (w.extractLsb' 4 1))
      ∧ (w.extractLsb' 0 4 = 0x7 → decode w = .write (w.extractLsb' 5 7))
      ∧ (w.extractLsb' 0 4 = 0x8 → decode w = .read (w.extractLsb' 5 7))
      ∧ (w.extractLsb' 0 4 = 0x9 → decode w = .wrRegIdx (w.extractLsb' 5 7) (w.extractLsb' 12 8))
      ∧ (w.extractLsb' 0 4 = 0xA → decode w = .wrReg (w.extractLsb' 5 7) (w.extractLsb' 12 8) (w.extractLsb' 20 8))
      ∧ (w.extractLsb' 0 4 = 0xB → decode w = .wrRegs (w.extractLsb' 5 7) (w.extractLsb' 12 8))
      ∧ (w.extractLsb' 0 4 = 0xC → decode w = .rdReg (w.extractLsb' 5 7) (w.extractLsb' 12 8))
      ∧ (w.extractLsb' 0 4 = 0xD → decode w = .rdRegs (w.extractLsb' 5 7) (w.extractLsb' 12 8)))

/-- 30_encoding R89, of the fields of the word: two legal words of one OP that agree on the fields the command reads decode
to the same command: F for SEND_BIT and RECV_BYTE, ADDR from WRITE to RD_REGS, B0 for SEND_BYTE and the register commands,
B1 for WR_REG. -/
def Obligations.DecodeReadsOnlyListedFields : Prop :=
  ∀ w v : Word, fieldRsv w = 0 → fieldRsv v = 0 → fieldOp w = fieldOp v →
    ((fieldOp w = 0x3 ∨ fieldOp w = 0x6) → fieldF w = fieldF v) →
    ((fieldOp w = 0x7 ∨ fieldOp w = 0x8 ∨ fieldOp w = 0x9 ∨ fieldOp w = 0xA ∨ fieldOp w = 0xB ∨ fieldOp w = 0xC ∨
        fieldOp w = 0xD) → fieldAddr w = fieldAddr v) →
    ((fieldOp w = 0x5 ∨ fieldOp w = 0x9 ∨ fieldOp w = 0xA ∨ fieldOp w = 0xB ∨ fieldOp w = 0xC ∨ fieldOp w = 0xD) →
        fieldB0 w = fieldB0 v) →
    (fieldOp w = 0xA → fieldB1 w = fieldB1 v) →
    decode w = decode v

/-- Words of section 2 of 95_test_vectors, one for each family, decode to the command they stand for. -/
def Obligations.VectorWordsDecode : Prop :=
  decode 0x00000000 = .init ∧ decode 0x00000013 = .sendBit 1 ∧ decode 0x000A5005 = .sendByte 0xA5
    ∧ decode 0x00000016 = .recvByte 1 ∧ decode 0x00000FE7 = .write 0x7F ∧ decode 0x00000788 = .read 0x3C
    ∧ decode 0x0AB10A0A = .wrReg 0x50 0x10 0xAB ∧ decode 0x0003BD0D = .rdRegs 0x68 0x3B
    ∧ decode 0x0FFFFFF1 = .start ∧ decode 0x0000000E = .illegalOpE ∧ decode 0x8000000A = .illegalRsv8

/-- 41_byte_master R143: the k-th bit on the wire is bit 7 - k of the byte; a received bit goes in at bit 0 of the accumulator,
shifted left by one and kept to 8 bits, from 0; after eight bits the k-th is at position 7 - k; and the eight levels a byte is
sent as, whatever the stretching of each, assemble to the byte. -/
def Obligations.SentBitsAssembleToTheByte : Prop :=
  (∀ (d : Byte) (k : Nat), k < 8 → wireBit d k = d.extractLsb' (7 - k) 1)
    ∧ (∀ (d : Byte) (b : Level), (shiftIn d b).extractLsb' 0 1 = b ∧ (shiftIn d b).extractLsb' 1 7 = d.extractLsb' 0 7)
    ∧ (∀ (bits : List (Nat × Level)) (k : Nat) (b : Nat × Level), bits.length = 8 → bits[k]? = some b →
        (assembled bits).extractLsb' (7 - k) 1 = b.2)
    ∧ ∀ (d : Byte) (k : Nat → Nat), assembled ((List.range 8).map fun j => (k j, wireBit d j)) = d

/-- 30_encoding R98, row by row of its table, for every value of a line's numbers: the line assembles exactly when each addr is
at most 0x7F, each byte at most 0xFF, each len or count at most 0xFFFF and a bit 0 or 1; the fields of its word are the row's
OP and the line's numbers, unused fields 0; LEN, TXA and RXA are the line's; and the word decodes to the line's command. LEN,
TXA and RXA that a line does not give are 0, the model's choice (log 17). -/
def Obligations.AssembledLineDecodes : Prop :=
  (∀ c : AsmCmd, c.wellFormed = true → ∃ b, assemble c = some b ∧ decode b.cmd = c.instr) ∧
  ∀ a i v b n x : Nat,
    Assembles .init True 0x0 0 0 0 0 0 0 0
    ∧ Assembles .start True 0x1 0 0 0 0 0 0 0
    ∧ Assembles .stop True 0x2 0 0 0 0 0 0 0
    ∧ Assembles (.sendBit b) (b ≤ 1) 0x3 b 0 0 0 0 0 0
    ∧ Assembles .recvBit True 0x4 0 0 0 0 0 0 0
    ∧ Assembles (.sendByte v) (v ≤ 0xFF) 0x5 0 0 v 0 0 0 0
    ∧ Assembles (.recvByte true) True 0x6 1 0 0 0 0 0 0
    ∧ Assembles (.recvByte false) True 0x6 0 0 0 0 0 0 0
    ∧ Assembles (.write a n x) (a ≤ 0x7F ∧ n ≤ 0xFFFF) 0x7 0 a 0 0 n x 0
    ∧ Assembles (.read a n x) (a ≤ 0x7F ∧ n ≤ 0xFFFF) 0x8 0 a 0 0 n 0 x
    ∧ Assembles (.wrRegIdx a i) (a ≤ 0x7F ∧ i ≤ 0xFF) 0x9 0 a i 0 0 0 0
    ∧ Assembles (.wrReg a i v) (a ≤ 0x7F ∧ i ≤ 0xFF ∧ v ≤ 0xFF) 0xA 0 a i v 0 0 0
    ∧ Assembles (.wrRegs a i n x) (a ≤ 0x7F ∧ i ≤ 0xFF ∧ n ≤ 0xFFFF) 0xB 0 a i 0 n x 0
    ∧ Assembles (.rdReg a i x) (a ≤ 0x7F ∧ i ≤ 0xFF) 0xC 0 a i 0 0 0 x
    ∧ Assembles (.rdRegs a i n x) (a ≤ 0x7F ∧ i ≤ 0xFF ∧ n ≤ 0xFFFF) 0xD 0 a i 0 n 0 x

/-! The step. -/

/-- A step is the move of the agent whose turn it is. When that is port p's sequencer and a command is in flight there, the
step is exec of the command its latched word decodes to, with port p in focus (10_state R27, 30_encoding R92). When it is the
host, the step is the oldest of the acts it has yet to do, that act removed (20_memory R64, log 4). Whose turn it is, is the
model's (log 3). -/
def Obligations.StepRunsTheDecodedCommandOrTheHostsAct : Prop :=
  (∀ (s : State) (p : Nat) (i : Instr), s.mover = some (.engine p) → (s.picked.focus p).cur.busy = true →
    decode (s.picked.focus p).cur.cmd = i → i.wellFormed = true → step s = exec i (s.picked.focus p))
  ∧ ∀ (s : State) (a : HostAct) (t : List HostAct), s.mover = some .host → s.inbox = a :: t →
    step s = hostAct a { s.picked with inbox := t }

/-- A placed word is the next command to run: the step is exec of what it decodes to, at its first primitive (log 11). -/
def Obligations.PlacedWordRunsNext : Prop :=
  ∀ (s : State) (w : Nat), w < 2 ^ 32 →
    ∃ t, step (s.withFetchWord 32 w) = exec (decode (BitVec.ofNat 32 w)) t ∧ t.cur.pos = .entry
      ∧ t.cur.cmd = BitVec.ofNat 32 w ∧ t.cur.busy = true ∧ t.mem = s.mem ∧ t.cur.history = s.cur.history

/-- 70 R241: with no command in flight, nothing asked by the host (log 4) and no turn laid down (log 3), the engine waits: the
step changes nothing. -/
def Obligations.IdleEngineWaits : Prop :=
  ∀ s : State, s.turn = [] → s.inbox = [] → s.cur.busy = false → (∀ e ∈ s.others, e.2.busy = false) → step s = .next s

/-! The caller and the host. -/

/-- 10_state R26, R27, R31: a command issued on a port whose BUSY is 0 is accepted: BUSY is 1, the operands are latched, POS
is the first primitive; DRIVE, RESULT and the history of the port stay, and every other port is as it was. -/
def Obligations.IssueIsAcceptedWhileNotBusy : Prop :=
  ∀ (s : State) (p : Nat) (b : Bundle), p < s.cfg.nPorts → (s.port p).busy = false →
    ∃ t, hostAct (.issue p b) s = .next t ∧ (t.port p).busy = true ∧ (t.port p).cmd = b.cmd ∧ (t.port p).len = b.len
      ∧ (t.port p).txa = b.txa % 2 ^ s.cfg.addrW ∧ (t.port p).rxa = b.rxa % 2 ^ s.cfg.addrW
      ∧ (t.port p).pos = .entry ∧ (t.port p).scl = (s.port p).scl ∧ (t.port p).sda = (s.port p).sda
      ∧ (t.port p).result = (s.port p).result ∧ (t.port p).history = (s.port p).history
      ∧ (∀ q, q ≠ p → t.port q = s.port q) ∧ t.mem = s.mem

/-- 60_exceptions R225, 70 R245: a command issued on a port whose BUSY is 1, and a line location of such a port written by
another agent, whichever of its two lines and whichever the byte, are faults of the caller. -/
def Obligations.BreakingThePortContractFaults : Prop :=
  ∀ (s : State) (p : Nat) (b : Bundle) (l : Line) (loc : Nat) (v : Byte), p < s.cfg.nPorts → (s.port p).busy = true →
    hostAct (.issue p b) s = .fault (.commandWhileBusy p)
      ∧ (s.cfg.lineLoc l p = some loc → hostAct (.lineWrite loc v) s = .fault (.lineWriteDuringCommand loc))

/-- 10_state R30, R35: RESULT read before any command has completed on the port is a fault; after that, and BUSY at any
time, the caller reads the register and nothing of the engine changes. 20_memory R64, R62: the caller reads a byte of its memory,
of the receive buffer at completion among them: the value it holds; a free value where a command in flight receives into it
(log 8) and where the caller provides it and nothing has written it (log 9); an address the caller does not provide, or that
does not exist, faults (log 9). That a read leaves a reply, and the field that says whether a command has completed, are the
model's (log 4, log 6). -/
def Obligations.CallerReadsResultBusyAndBuffers : Prop :=
  (∀ (s : State) (p : Nat), p < s.cfg.nPorts →
    ((s.port p).completed = false → hostAct (.readResult p) s = .fault (.resultBeforeCompletion p))
      ∧ ((s.port p).completed = true →
          hostAct (.readResult p) s = .next { s with replies := s.replies ++ [.result p (s.port p).result] })
      ∧ hostAct (.readBusy p) s = .next { s with replies := s.replies ++ [.busy p (s.port p).busy] })
  ∧ ∀ (s : State) (a : Nat),
    (∀ v, a < 2 ^ s.cfg.addrW → s.receiving a = false → memFind a s.mem = some v →
        hostAct (.readByte a) s = .next { s with replies := s.replies ++ [.byte a v] })
      ∧ (a < 2 ^ s.cfg.addrW → (s.receiving a = true ∨ (memFind a s.mem = none ∧ s.mayWrite a = true)) →
          hostAct (.readByte a) s = .next { s with
            replies := s.replies ++ [.byte a (Config.freeByte s.draws)], draws := s.draws + 1 })
      ∧ (a < 2 ^ s.cfg.addrW → s.receiving a = false → memFind a s.mem = none → s.mayWrite a = false →
          hostAct (.readByte a) s = .fault (.bufferNotProvided a))
      ∧ (¬ a < 2 ^ s.cfg.addrW → hostAct (.readByte a) s = .fault (.addressOutsideMemory a))

/-- 70 R240, 10_state R34: a reset abandons every command in flight: on every port BUSY is 0, DRIVE is LINE_RESET(p) and the
history is empty; caller memory and what each bus environment presents stay. That no command counts as completed afterwards is
the model's choice (log 6). -/
def Obligations.HostResetAbandonsEveryCommand : Prop :=
  ∀ s : State, ∃ t, hostAct .reset s = .next t ∧ t.mem = s.mem ∧
    ∀ p, (t.port p).busy = false ∧ (t.port p).scl = Config.lineReset p .scl ∧ (t.port p).sda = Config.lineReset p .sda
      ∧ (t.port p).history = [] ∧ (t.port p).completed = false ∧ (t.port p).env = (s.port p).env

/-- 10_state R34, R31: at reset, on every port, BUSY is 0, DRIVE is LINE_RESET(p) and the event history is empty. -/
def Obligations.ResetStateOfEveryPort : Prop :=
  ∀ p, (State.reset.port p).busy = false ∧ (State.reset.port p).scl = Config.lineReset p .scl
    ∧ (State.reset.port p).sda = Config.lineReset p .sda ∧ (State.reset.port p).history = []

/-- 20_memory R52, 70 R246: a byte the caller places in its memory is held there, and no other byte and no other part of the
machine changes, but the model's own note of a disturbed send buffer (log 8); an address of 2^ADDR_W or above does not exist,
the model's fault of that name (log 9). -/
def Obligations.PlacedBytesAreHeld : Prop :=
  ∀ (s : State) (a : Nat) (v : Byte),
    (a < 2 ^ s.cfg.addrW → ∃ t, hostAct (.provide a v) s = .next t ∧ memFind a t.mem = some v
      ∧ (∀ b, b ≠ a → memFind b t.mem = memFind b s.mem)
      ∧ (∀ p, { t.port p with disturbed := [] } = { s.port p with disturbed := [] })
      ∧ t.cfg = s.cfg ∧ t.sel = s.sel ∧ t.writable = s.writable ∧ t.inbox = s.inbox ∧ t.replies = s.replies
      ∧ t.turn = s.turn ∧ t.draws = s.draws)
    ∧ (¬ a < 2 ^ s.cfg.addrW → hostAct (.provide a v) s = .fault (.addressOutsideMemory a))

/-- 20_memory R62, 93 U7: a send-buffer byte the caller wrote during the command is sent with a value nothing fixes: the free
value, whatever memory holds (log 8), and so is one the caller provides and nothing has written (log 9): byte IDX of WRITE's
buffer, and byte IDX - 1 of WR_REGS's, whose payload begins with the index. -/
def Obligations.DisturbedOrUnwrittenByteIsFree : Prop :=
  ∀ (addr : BitVec 7) (index : Byte) (s : State) (a : Nat), s.cur.pos = .memRead →
    s.mayRead a = true → (a ∈ s.cur.disturbed ∨ memFind a s.mem = none) →
    (a = bufAddr s.cfg.addrW s.cur.txa s.cur.work.idx.toNat →
        ∃ t, exec (.write addr) s = .next t ∧ t.cur.work.shift = Config.freeByte s.draws
          ∧ t.cur.history = s.cur.history ++ [.mr a (Config.freeByte s.draws)])
      ∧ (s.cur.work.idx.toNat ≠ 0 → a = bufAddr s.cfg.addrW s.cur.txa (s.cur.work.idx.toNat - 1) →
        ∃ t, exec (.wrRegs addr index) s = .next t ∧ t.cur.work.shift = Config.freeByte s.draws
          ∧ t.cur.history = s.cur.history ++ [.mr a (Config.freeByte s.draws)])

/-! Each command's first primitive and its finish. -/

/-- 40_bit_master R111 to R115: at acceptance INIT, START, STOP, SEND_BIT and RECV_BIT perform their first SetLine and move
POS to the second primitive. -/
def Obligations.BitCommandsFirstPrimitive : Prop :=
  ∀ (s : State) (b : BitVec 1), s.cur.pos = .entry →
    exec .init s = .next ((s.setLine .scl 1).goto (.init 1))
      ∧ exec .start s = .next ((s.setLine .sda 1).goto (.start 1))
      ∧ exec .stop s = .next ((s.setLine .sda 0).goto (.stop .command 1))
      ∧ exec (.sendBit b) s = .next ((s.setLine .sda b).goto (.sendBit 1))
      ∧ exec .recvBit s = .next ((s.setLine .sda 1).goto (.recv .bitCommand (.raise 1)))

/-- 41_byte_master R141, R142: at acceptance SEND_BYTE drives SDA at bit 7 of its byte, with the byte in SHIFT and BITCNT 0;
RECV_BYTE releases SDA, with SHIFT and BITCNT 0. -/
def Obligations.ByteCommandsFirstPrimitive : Prop :=
  ∀ (s : State) (d : Byte) (a : BitVec 1), s.cur.pos = .entry →
    exec (.sendByte d) s = .next (((s.setWork fun w => { w with shift := d, bitcnt := 0 }).setLine .sda
        (d.extractLsb' 7 1)).goto (.send .command (.bit 1)))
      ∧ exec (.recvByte a) s = .next (((s.setWork fun w => { w with shift := 0, bitcnt := 0 }).setLine .sda 1).goto
          (.recv .byteCommand (.raise 1)))

/-- 42_buffer_master R161, R162; 43_register_gateway R191 to R195: at acceptance each Buffer Transfer command performs the
first primitive of start(), SetLine(SDA, 1); RD_REG and RD_REGS with PHASE 0. -/
def Obligations.TransactionCommandsFirstPrimitive : Prop :=
  ∀ (s : State) (a : BitVec 7) (x v : Byte), s.cur.pos = .entry →
    exec (.write a) s = .next ((s.setLine .sda 1).goto (.start 1))
      ∧ exec (.read a) s = .next ((s.setLine .sda 1).goto (.start 1))
      ∧ exec (.wrRegIdx a x) s = .next ((s.setLine .sda 1).goto (.start 1))
      ∧ exec (.wrReg a x v) s = .next ((s.setLine .sda 1).goto (.start 1))
      ∧ exec (.wrRegs a x) s = .next ((s.setLine .sda 1).goto (.start 1))
      ∧ exec (.rdReg a x) s = .next (((s.setWork fun w => { w with phase := 0 }).setLine .sda 1).goto (.start 1))
      ∧ exec (.rdRegs a x) s = .next (((s.setWork fun w => { w with phase := 0 }).setLine .sda 1).goto (.start 1))

/-- 30_encoding R84, 42_buffer_master R160: the byte a Buffer Transfer command sends first after start() is its address, no bit
lost, above the direction bit: 1 in READ and in the read transaction of RD_REG and RD_REGS, 0 otherwise. -/
def Obligations.TheFirstByteIsTheAddressByte : Prop :=
  ∀ (i : Instr) (s : State), isTransaction i = true → owns i s.cur = true → s.cur.pos = .start 7 →
    ∃ t, exec i s = .next t ∧ t.cur.pos = .send .address (.bit 0) ∧ t.cur.work.bitcnt = 0
      ∧ t.cur.work.shift.extractLsb' 1 7 = deviceAddr i
      ∧ t.cur.work.shift.extractLsb' 0 1 = (match i with
        | .read _ => 1
        | .rdReg _ _ | .rdRegs _ _ => s.cur.work.phase
        | _ => 0)

/-- 30_encoding R95, R96 and the command rules: at its finish each command answers RESULT with STATUS = OK and, of the other
fields, ACK for SEND_BYTE and VALUE for RECV_BIT, RECV_BYTE and RD_REG; BUSY clears. -/
def Obligations.FinishWritesTheCommandsResult : Prop :=
  ∀ (s : State) (b : BitVec 1) (a : BitVec 7) (x v : Byte), s.cur.pos = .finish →
    exec .init s = .next (s.finish 0) ∧ exec .start s = .next (s.finish 0) ∧ exec .stop s = .next (s.finish 0)
      ∧ exec (.sendBit b) s = .next (s.finish 0)
      ∧ exec .recvBit s = .next (s.finish (s.cur.work.sample.zeroExtend 32 <<< 3))
      ∧ exec (.sendByte x) s = .next (s.finish (s.cur.work.acked.zeroExtend 32 <<< 2))
      ∧ exec (.recvByte b) s = .next (s.finish (s.cur.work.shift.zeroExtend 32 <<< 3))
      ∧ exec (.write a) s = .next (s.finish 0) ∧ exec (.read a) s = .next (s.finish 0)
      ∧ exec (.wrRegIdx a x) s = .next (s.finish 0) ∧ exec (.wrReg a x v) s = .next (s.finish 0)
      ∧ exec (.wrRegs a x) s = .next (s.finish 0)
      ∧ exec (.rdReg a x) s = .next (s.finish (s.cur.work.shift.zeroExtend 32 <<< 3))
      ∧ exec (.rdRegs a x) s = .next (s.finish 0)

/-- 60_exceptions R215, 30_encoding R90: every reserved command, and so every word with RSV not 0 or with OP 0xE or 0xF, ends in
one step: RESULT is 0x00000003, BUSY is 0, no event is appended, the lines and caller memory are unchanged. -/
def Obligations.ReservedWordsFinishIllegal : Prop :=
  (∀ (i : Instr) (s : State), i.reserved = true → s.cur.pos = .entry →
    ∃ t, exec i s = .next t ∧ Ended s t [] s.cur.scl s.cur.sda 0x00000003 ∧ t.mem = s.mem)
  ∧ ∀ (w : Word) (s : State), (fieldRsv w ≠ 0 ∨ fieldOp w = 0xE ∨ fieldOp w = 0xF) → s.cur.pos = .entry →
    ∃ t, exec (decode w) s = .next t ∧ Ended s t [] s.cur.scl s.cur.sda 0x00000003 ∧ t.mem = s.mem

/-- 30_encoding R96: the RESULT each command ends with, whichever step ends it: at its own finish OK, with ACK = ACKED for
SEND_BYTE and VALUE the bit in SAMPLE for RECV_BIT, the byte in SHIFT for RECV_BYTE and RD_REG, all else 0; else FAIL or STALL,
by the finish its POS names, in the commands that can end so; ILLEGAL for a reserved command. -/
def Obligations.EachCommandEndsInItsResults : Prop :=
  ∀ (i : Instr) (s t : State), owns i s.cur = true → s.cur.busy = true → exec i s = .next t → t.cur.busy = false →
    (match i with
      | .init | .start | .stop | .sendBit _ => s.cur.pos = .finish ∧ t.cur.result = 0
      | .recvBit => (s.cur.pos = .finish ∧ t.cur.result = s.cur.work.sample.zeroExtend 32 <<< 3)
          ∨ (s.cur.pos = .finishStall ∧ t.cur.result = 2)
      | .sendByte _ => s.cur.pos = .finish ∧ t.cur.result = s.cur.work.acked.zeroExtend 32 <<< 2
      | .recvByte _ => (s.cur.pos = .finish ∧ t.cur.result = s.cur.work.shift.zeroExtend 32 <<< 3)
          ∨ (s.cur.pos = .finishStall ∧ t.cur.result = 2)
      | .write _ | .wrRegIdx _ _ | .wrReg _ _ _ | .wrRegs _ _ => (s.cur.pos = .finish ∧ t.cur.result = 0)
          ∨ (s.cur.pos = .finishFail ∧ t.cur.result = 1)
      | .read _ | .rdRegs _ _ => (s.cur.pos = .finish ∧ t.cur.result = 0) ∨ (s.cur.pos = .finishFail ∧ t.cur.result = 1)
          ∨ (s.cur.pos = .finishStall ∧ t.cur.result = 2)
      | .rdReg _ _ => (s.cur.pos = .finish ∧ t.cur.result = s.cur.work.shift.zeroExtend 32 <<< 3)
          ∨ (s.cur.pos = .finishFail ∧ t.cur.result = 1) ∨ (s.cur.pos = .finishStall ∧ t.cur.result = 2)
      | _ => t.cur.result = 3)

/-! Progress, and where a command is stuck. -/

/-- 10_state R27, 60_exceptions R210: at every position of its pseudocode every command answers a next state, as long as the
byte of caller memory it accesses there, if any, is one the caller provides. -/
def Obligations.EveryPositionAnswersNext : Prop :=
  ∀ (i : Instr) (s : State), owns i s.cur = true → accessProvided i s = true → ∃ t, exec i s = .next t

/-- 70 R246: an access to a byte the caller has not provided is stuck: the model's fault of that name (log 9). -/
def Obligations.UnprovidedAccessIsStuck : Prop :=
  ∀ (i : Instr) (s : State) (a : Nat), owns i s.cur = true → accessAddr i s = some a → accessProvided i s = false →
    exec i s = .fault (.bufferNotProvided a)

/-! Whole commands. -/

/-- 40_bit_master R111: INIT performs W(SCL,1) W(SDA,1), leaves both lines at 1 and ends with RESULT 0. -/
def Obligations.InitReleasesBothLines : Prop :=
  ∀ s : State, s.cur.pos = .entry →
    ∃ t, execN .init 3 s = .next t ∧ Ended s t [.w .scl 1, .w .sda 1] 1 1 0 ∧ t.mem = s.mem

/-- 40_bit_master R112: START performs its eight events, leaves (SCL 0, SDA 0) and ends with RESULT 0. -/
def Obligations.StartFormsStart : Prop :=
  ∀ s : State, s.cur.pos = .entry →
    ∃ t, execN .start 9 s = .next t ∧ t.mem = s.mem ∧
      Ended s t [.w .sda 1, .d s.cfg.tUs, .w .scl 1, .d s.cfg.tUs, .w .sda 0, .d s.cfg.tUs, .w .scl 0, .d s.cfg.tUs] 0 0 0

/-- 40_bit_master R113: STOP performs its six events, leaves both lines at 1 and ends with RESULT 0. -/
def Obligations.StopFormsStop : Prop :=
  ∀ s : State, s.cur.pos = .entry →
    ∃ t, execN .stop 7 s = .next t ∧ t.mem = s.mem ∧
      Ended s t [.w .sda 0, .d s.cfg.tUs, .w .scl 1, .d s.cfg.tUs, .w .sda 1, .d s.cfg.tUs] 1 1 0

/-- 40_bit_master R114: SEND_BIT drives SDA at the bit, clocks SCL once, leaves (SCL 0, SDA b) and ends with RESULT 0. -/
def Obligations.SendBitClocksTheBit : Prop :=
  ∀ (b : BitVec 1) (s : State), s.cur.pos = .entry →
    ∃ t, execN (.sendBit b) 6 s = .next t ∧ t.mem = s.mem ∧
      Ended s t [.w .sda b, .d s.cfg.tUs, .w .scl 1, .d s.cfg.tUs, .w .scl 0] 0 b 0

/-- 40_bit_master R115: RECV_BIT, its k polls before the one reading 1 within a finite STRETCH_LIMIT, samples SDA right after
the poll that reads 1, leaves (SCL 0, SDA 1) and ends with VALUE the bit. -/
def Obligations.RecvBitReturnsTheSampledBit : Prop :=
  ∀ (k : Nat) (b : Level) (s : State), s.cur.pos = .entry → nextLevels (k + 2) s = List.replicate k 0 ++ [1, b] →
    withinLimit s [(k, b)] →
    ∃ t, execN .recvBit (k + 8) s = .next t ∧ t.mem = s.mem ∧
      Ended s t ([.w .sda 1, .w .scl 1, .d s.cfg.tUs] ++ (List.replicate k (.r .scl 0) ++
        [.r .scl 1, .r .sda b, .w .scl 0, .d s.cfg.tUs])) 0 1 (b.zeroExtend 32 <<< 3)

/-- 40_bit_master R116: with STRETCH_LIMIT n, RECV_BIT whose first n polls read 0 emits Stall and ends with STATUS = STALL,
no STOP, both lines at 1. -/
def Obligations.RecvBitStallsAtTheLimit : Prop :=
  ∀ (n : Nat) (s : State), s.cur.pos = .entry → s.cfg.stretchLimit = some (n + 1) →
    nextLevels (n + 1) s = List.replicate (n + 1) 0 →
    ∃ t, execN .recvBit (n + 6) s = .next t ∧ t.mem = s.mem ∧
      Ended s t ([.w .sda 1, .w .scl 1, .d s.cfg.tUs] ++ (List.replicate (n + 1) (.r .scl 0) ++ [.g .stall])) 1 1 2

/-- 40_bit_master R116: with STRETCH_LIMIT n, any receive_bit, of whichever command, the first of RECV_BIT and RECV_BYTE at their
acceptance among them, whose first n polls read 0 ends the whole command at the n-th: no further line event and no STOP, both lines at 1, Diag(Stall), STATUS = STALL; bytes stored before stay
and none is stored after. -/
def Obligations.StallEndsEveryReceivingCommand : Prop :=
  ∀ (i : Instr) (site : RecvSite) (n : Nat) (s : State), owns i s.cur = true →
    (s.cur.pos = .recv site (.raise 0) ∨ (s.cur.pos = .entry ∧ (i = .recvBit ∨ ∃ ack, i = .recvByte ack))) →
    s.cfg.stretchLimit = some (n + 1) → nextLevels (n + 1) s = List.replicate (n + 1) 0 →
    ∃ t, execN i (n + 6) s = .next t ∧ t.mem = s.mem ∧
      Ended s t ([.w .sda 1, .w .scl 1, .d s.cfg.tUs] ++ (List.replicate (n + 1) (.r .scl 0) ++ [.g .stall])) 1 1 2

/-- 60_exceptions R213, 40_bit_master R115: a poll passes only on a read of 1. Each poll is one step that appends its read; on
0 with STRETCH_LIMIT none the command stays at the poll, and so for any number of polls, with BUSY, RESULT and the lines as
they were: the command hangs as long as the line is held low. -/
def Obligations.PollRepeatsWhileSclReadsZero : Prop :=
  ∀ (i : Instr) (site : RecvSite) (n : Nat) (s : State), owns i s.cur = true → s.cur.pos = .recv site .poll →
    s.cfg.stretchLimit = none → (∀ v ∈ nextLevels n s, v = 0) →
    ∃ t, execN i n s = .next t ∧ t.cur.pos = .recv site .poll ∧ t.cur.busy = s.cur.busy ∧ t.cur.result = s.cur.result
      ∧ t.cur.scl = s.cur.scl ∧ t.cur.sda = s.cur.sda ∧ t.mem = s.mem
      ∧ t.cur.history = s.cur.history ++ List.replicate n (.r .scl 0)

/-- 41_byte_master R141: SEND_BYTE sends its eight bits most significant first, samples the acknowledge bit while SCL is 0,
clocks the ninth clock, leaves (SCL 0, SDA 1) and ends with ACK 1 exactly when the sample was 0, whatever the environment
presents. -/
def Obligations.SendByteReportsTheAcknowledge : Prop :=
  ∀ (d : Byte) (s : State), s.cur.pos = .entry →
    ∃ t, execN (.sendByte d) 49 s = .next t ∧ t.mem = s.mem ∧
      Ended s t (sendByteEvents s.cfg.tUs d s.envLevel) 0 1 (if s.envLevel = 0 then 4 else 0)

/-- 41_byte_master R142: RECV_BYTE assembles the eight bits the environment presents, each after its polls, drives the
acknowledge level and clocks the ninth clock, leaves SCL 0 and SDA at that level, and ends with VALUE the byte. -/
def Obligations.RecvByteReturnsTheByte : Prop :=
  ∀ (ack : BitVec 1) (bits : List (Nat × Level)) (s : State), s.cur.pos = .entry → bits.length = 8 →
    nextLevels (bits.flatMap receiveBitEnv).length s = bits.flatMap receiveBitEnv → withinLimit s bits →
    ∃ t, execN (.recvByte ack) ((receiveByteEvents s.cfg.tUs bits ack).length + 1) s = .next t ∧ t.mem = s.mem ∧
      Ended s t (receiveByteEvents s.cfg.tUs bits ack) 0 (if ack = 1 then 0 else 1)
        ((assembled bits).zeroExtend 32 <<< 3)

/-- 42_buffer_master R161, 43_register_gateway R191 to R193: WRITE, WR_REG_IDX, WR_REG and WR_REGS, every byte acknowledged,
perform START, the address byte, each payload byte in order (read from the send buffer immediately before it is sent, where it
comes from there) and STOP; they leave both lines at 1, end with STATUS = OK, and write no memory. The bus has the pull-ups 70
R242 asks for. -/
def Obligations.WriteCommandsSucceedWhenAcknowledged : Prop :=
  ∀ (i : Instr) (s : State) (n : Nat) (data : Nat → Payload) (d : Nat → Byte), s.cur.pos = .entry →
    writePlan i s.cur.len = some (n, data) → (∀ j < n, payloadByte s (data j) = some (d j)) → s.cur.disturbed = [] →
    s.cfg.pulledUp s.sel = true → nextLevels (n + 1) s = List.replicate (n + 1) 0 →
    let evs := writeEvents s.cfg.tUs (bufAddr s.cfg.addrW s.cur.txa) (deviceAddr i) data d n
    ∃ t, execN i (evs.length + 1) s = .next t ∧ Ended s t evs 1 1 0 ∧ t.mem = s.mem

/-- 60_exceptions R211, R214, R217: every Buffer Transfer command, its (first) address byte not acknowledged: START, the address
byte, STOP, then AddrNack with the direction, then STATUS = FAIL; no memory is accessed. 70 R242 item 2: without pull-ups no line
reads 1 and every address phase fails so, whatever the environment (that R141's acknowledge waits on R242 is the model's
reading, log 18). -/
def Obligations.AddressNackFailsTheCommand : Prop :=
  (∀ (s : State) (l : Line), s.cfg.pulledUp s.sel = false → s.level l = 0)
  ∧ ∀ (i : Instr) (s : State), s.cur.pos = .entry → isTransaction i = true →
    (s.envLevel = 1 ∨ s.cfg.pulledUp s.sel = false) →
    let evs := addrNackEvents s.cfg.tUs (deviceAddr i) (match i with | .read _ => 1 | _ => 0) s.envLevel
    ∃ t, execN i (evs.length + 1) s = .next t ∧ Ended s t evs 1 1 1 ∧ t.mem = s.mem

/-- 60_exceptions R212, R214, R217: WRITE, WR_REG_IDX, WR_REG and WR_REGS, payload byte k the first not acknowledged: bytes 0
to k are sent in full, then STOP, then DataNack(k), then STATUS = FAIL; no byte after k is read or sent. -/
def Obligations.DataNackFailsTheCommand : Prop :=
  ∀ (i : Instr) (s : State) (n k : Nat) (data : Nat → Payload) (d : Nat → Byte), s.cur.pos = .entry →
    writePlan i s.cur.len = some (n, data) → k < n → (∀ j ≤ k, payloadByte s (data j) = some (d j)) →
    s.cur.disturbed = [] → nextLevels (k + 2) s = List.replicate (k + 1) 0 ++ [1] →
    let evs := dataNackEvents s.cfg.tUs (bufAddr s.cfg.addrW s.cur.txa) (deviceAddr i) data d k
    ∃ t, execN i (evs.length + 1) s = .next t ∧ Ended s t evs 1 1 1 ∧ t.mem = s.mem

/-- 42_buffer_master R162: READ, its address acknowledged, receives LEN bytes, acknowledges all but the last, stores byte j at
RXA + j immediately after it is received, then STOP; it leaves both lines at 1 and ends with STATUS = OK. The bus has the
pull-ups 70 R242 asks for. -/
def Obligations.ReadStoresTheReceivedBytes : Prop :=
  ∀ (addr : BitVec 7) (s : State) (bs : Nat → List (Nat × Level)), s.cur.pos = .entry →
    (∀ j < s.cur.len.toNat, (bs j).length = 8 ∧ withinLimit s (bs j)
      ∧ s.mayWrite (bufAddr s.cfg.addrW s.cur.rxa j) = true) →
    s.cfg.pulledUp s.sel = true → nextLevels (readEnv bs s.cur.len.toNat).length s = readEnv bs s.cur.len.toNat →
    let evs := readEvents s.cfg.tUs (bufAddr s.cfg.addrW s.cur.rxa) addr bs s.cur.len.toNat
    ∃ t, execN (.read addr) (evs.length + 1) s = .next t ∧ Ended s t evs 1 1 0
      ∧ t.mem = receivedMem (bufAddr s.cfg.addrW s.cur.rxa) bs s.cur.len.toNat s.mem

/-- 43_register_gateway R194, R195, R197: RD_REG and RD_REGS, everything acknowledged: the index write with its own START and
STOP, then the read of one or LEN bytes with its own START and STOP; STATUS = OK, and for RD_REG VALUE is the byte, for RD_REGS
VALUE is 0. The bus has the pull-ups 70 R242 asks for. -/
def Obligations.RegisterReadsStoreTheReceivedBytes : Prop :=
  ∀ (i : Instr) (addr : BitVec 7) (index : Byte) (n : Nat) (r : Word) (s : State) (bs : Nat → List (Nat × Level)),
    s.cur.pos = .entry →
    ((i = .rdReg addr index ∧ n = 1 ∧ r = (assembled (bs 0)).zeroExtend 32 <<< 3)
      ∨ (i = .rdRegs addr index ∧ n = s.cur.len.toNat ∧ r = 0)) →
    (∀ j < n, (bs j).length = 8 ∧ withinLimit s (bs j) ∧ s.mayWrite (bufAddr s.cfg.addrW s.cur.rxa j) = true) →
    s.cfg.pulledUp s.sel = true → nextLevels (2 + (readEnv bs n).length) s = 0 :: 0 :: readEnv bs n →
    let evs := writeEvents s.cfg.tUs (bufAddr s.cfg.addrW s.cur.txa) addr (payloadIndex index) (fun _ => index) 1
      ++ readEvents s.cfg.tUs (bufAddr s.cfg.addrW s.cur.rxa) addr bs n
    ∃ t, execN i (evs.length + 1) s = .next t ∧ Ended s t evs 1 1 r
      ∧ t.mem = receivedMem (bufAddr s.cfg.addrW s.cur.rxa) bs n s.mem

/-- 43_register_gateway R196, 60_exceptions R217, R219: RD_REG and RD_REGS, the index byte not acknowledged: the index write
ends in STOP and DataNack(0), the read phase is never attempted, STATUS = FAIL, nothing is stored. -/
def Obligations.RegisterReadFailsInTheIndexPhase : Prop :=
  ∀ (i : Instr) (addr : BitVec 7) (index : Byte) (s : State), s.cur.pos = .entry →
    (i = .rdReg addr index ∨ i = .rdRegs addr index) → nextLevels 2 s = [0, 1] →
    let evs := dataNackEvents s.cfg.tUs (bufAddr s.cfg.addrW s.cur.txa) addr (payloadIndex index) (fun _ => index) 0
    ∃ t, execN i (evs.length + 1) s = .next t ∧ Ended s t evs 1 1 1 ∧ t.mem = s.mem

/-- 43_register_gateway R196, 60_exceptions R211, R217: RD_REG and RD_REGS, the index write acknowledged and the read's
address byte not: after both transactions' STOP, AddrNack with direction 1, STATUS = FAIL, nothing is stored. -/
def Obligations.RegisterReadFailsInTheReadPhase : Prop :=
  ∀ (i : Instr) (addr : BitVec 7) (index : Byte) (s : State), s.cur.pos = .entry →
    (i = .rdReg addr index ∨ i = .rdRegs addr index) → nextLevels 3 s = [0, 0, 1] →
    let evs := writeEvents s.cfg.tUs (bufAddr s.cfg.addrW s.cur.txa) addr (payloadIndex index) (fun _ => index) 1
      ++ addrNackEvents s.cfg.tUs addr 1 1
    ∃ t, execN i (evs.length + 1) s = .next t ∧ Ended s t evs 1 1 1 ∧ t.mem = s.mem

/-- 30_encoding R85, R83: from an idle bus, the events of a write put on the bus START, the frame of {addr, 0}, the frame of
each payload byte, STOP, every frame acknowledged at level 0; where the address or payload byte k is the first not
acknowledged, its frame ends at level 1, the remaining frames are left out and STOP follows at once. The acknowledge levels
are read off the wire by the model's reader, which holds the sampled level through the ninth clock (log 16). -/
def Obligations.WriteWaveform : Prop :=
  ∀ (tUs : Nat) (addrOf : Nat → Nat) (addr : BitVec 7) (data : Nat → Payload) (d : Nat → Byte) (n : Nat),
    WireReader.idle.read (writeEvents tUs addrOf addr data d n)
        = .start :: (frameSyms (addrByte addr 0) 0
            ++ ((List.range n).flatMap (fun j => frameSyms (d j) 0) ++ [.stop]))
      ∧ WireReader.idle.read (addrNackEvents tUs addr 0 1) = .start :: (frameSyms (addrByte addr 0) 1 ++ [.stop])
      ∧ WireReader.idle.read (dataNackEvents tUs addrOf addr data d n)
        = .start :: (frameSyms (addrByte addr 0) 0
            ++ ((List.range n).flatMap (fun j => frameSyms (d j) 0) ++ (frameSyms (d n) 1 ++ [.stop])))

/-- 30_encoding R85, R83: from an idle bus, the events of a read put on the bus START, the acknowledged frame of {addr, 1}, the
frame of each received byte, acknowledged (0) but for the last (1), STOP; where the address is not acknowledged, STOP follows
its frame. The levels are read off the wire by the model's reader (log 16). -/
def Obligations.ReadWaveform : Prop :=
  ∀ (tUs : Nat) (addrOf : Nat → Nat) (addr : BitVec 7) (bs : Nat → List (Nat × Level)) (n : Nat),
    ((∀ j < n, (bs j).length = 8) →
      WireReader.idle.read (readEvents tUs addrOf addr bs n)
        = .start :: (frameSyms (addrByte addr 1) 0
            ++ ((List.range n).flatMap (fun j => frameSyms (assembled (bs j)) (if j + 1 = n then 1 else 0)) ++ [.stop])))
      ∧ WireReader.idle.read (addrNackEvents tUs addr 1 1) = .start :: (frameSyms (addrByte addr 1) 1 ++ [.stop])

/-- 70 R250: the number of timing units, as their events count them: INIT's procedure 0, start() 4, stop() 3, send_bit and
receive_bit 2, send_byte 20, receive_byte 18; a write of n bytes 27 + 20 n, a read 27 + 18 n; 27 where the address is not
acknowledged, 47 + 20 k where payload byte k is not; an index write and a read of n bytes 74 + 18 n, and 74 where the read's
address is not acknowledged. -/
def Obligations.DelayCounts : Prop :=
  ∀ (tUs k : Nat) (b : Level) (addrOf : Nat → Nat) (addr : BitVec 7) (data : Nat → Payload) (d : Nat → Byte) (n : Nat)
    (bs : Nat → List (Nat × Level)) (ack rw : BitVec 1) (byte : Byte),
    delays (lineEvents tUs initCode) = 0 ∧ delays (startEvents tUs) = 4 ∧ delays (stopEvents tUs) = 3
      ∧ delays (lineEvents tUs (sendBitCode b)) = 2
      ∧ delays (receiveBitEvents tUs k b) = 2 ∧ delays (sendByteEvents tUs byte b) = 20
      ∧ ((bs 0).length = 8 → delays (receiveByteEvents tUs (bs 0) ack) = 18)
      ∧ delays (writeEvents tUs addrOf addr data d n) = 27 + 20 * n
      ∧ ((∀ j < n, (bs j).length = 8) → delays (readEvents tUs addrOf addr bs n) = 27 + 18 * n)
      ∧ delays (addrNackEvents tUs addr rw b) = 27 ∧ delays (dataNackEvents tUs addrOf addr data d k) = 47 + 20 * k
      ∧ ((∀ j < n, (bs j).length = 8) →
          delays (writeEvents tUs addrOf addr data d 1 ++ readEvents tUs addrOf addr bs n) = 74 + 18 * n)
      ∧ delays (writeEvents tUs addrOf addr data d 1 ++ addrNackEvents tUs addr 1 b) = 74

/-- 30_encoding R99, of the runs of the commands. WR_REG_IDX, WR_REG and WR_REGS, and a WRITE to the same address whose send
buffer holds the bytes of their payload, whatever the environment acknowledges, end with the same RESULT and line levels after
the same events, but for the reads of the send buffer. RD_REG has the events of WR_REG_IDX and, if that returned OK, of a READ of
one byte to the same buffer issued after it: where the index write fails; where the read's address is not acknowledged; and
where the byte is received, which VALUE then carries too. -/
def Obligations.PayloadSourceDoesNotShowOnTheBus : Prop :=
  (∀ (i : Instr) (s s' : State) (n : Nat) (data : Nat → Payload) (d : Nat → Byte),
    s.cur.pos = .entry → s'.cur.pos = .entry → s.cur.busy = true → s'.cur.busy = true →
    writePlan i s.cur.len = some (n, data) → s'.cur.len.toNat = n →
    (∀ j < n, payloadByte s (data j) = some (d j)) → (∀ j < n, payloadByte s' (payloadWrite j) = some (d j)) →
    s.cur.disturbed = [] → s'.cur.disturbed = [] → s'.cfg.tUs = s.cfg.tUs →
    s'.cfg.pulledUp s'.sel = s.cfg.pulledUp s.sel →
    nextLevels (n + 1) s' = nextLevels (n + 1) s →
    ∃ (m m' : Nat) (t t' : State) (evs evs' : List Event), execN i m s = .next t
      ∧ execN (.write (deviceAddr i)) m' s' = .next t' ∧ t.cur.busy = false ∧ t'.cur.busy = false
      ∧ t.cur.history = s.cur.history ++ evs ∧ t'.cur.history = s'.cur.history ++ evs'
      ∧ exceptMemReads evs' = exceptMemReads evs ∧ t'.cur.result = t.cur.result
      ∧ t'.cur.scl = t.cur.scl ∧ t'.cur.sda = t.cur.sda ∧ t.mem = s.mem ∧ t'.mem = s'.mem)
  ∧ (∀ (addr : BitVec 7) (index : Byte) (s : State), s.cur.pos = .entry → s.cur.busy = true →
    ((nextLevels 2 s ≠ [0, 0] ∨ s.cfg.pulledUp s.sel = false) →
      ∃ (m m' : Nat) (t t' : State), execN (.rdReg addr index) m s = .next t ∧ execN (.wrRegIdx addr index) m' s = .next t'
        ∧ t.cur.busy = false ∧ t'.cur.busy = false ∧ t.cur.history = t'.cur.history ∧ t.cur.result = 1 ∧ t'.cur.result = 1
        ∧ t.cur.scl = t'.cur.scl ∧ t.cur.sda = t'.cur.sda ∧ t.mem = t'.mem)
    ∧ (nextLevels 3 s = [0, 0, 1] →
      ∃ (m m' k : Nat) (t t' u : State), execN (.rdReg addr index) m s = .next t
        ∧ execN (.wrRegIdx addr index) m' s = .next t' ∧ t'.cur.busy = false ∧ t'.cur.result = 0
        ∧ execN (.read addr) k (t'.accept { cmd := encode (.read addr), len := 1, txa := 0, rxa := s.cur.rxa }) = .next u
        ∧ t.cur.busy = false ∧ u.cur.busy = false ∧ t.cur.history = u.cur.history ∧ t.cur.result = 1 ∧ u.cur.result = 1
        ∧ t.cur.scl = u.cur.scl ∧ t.cur.sda = u.cur.sda ∧ t.mem = u.mem)
    ∧ ∀ bits : List (Nat × Level), bits.length = 8 → withinLimit s bits →
      s.mayWrite (bufAddr s.cfg.addrW s.cur.rxa 0) = true →
      nextLevels (3 + (bits.flatMap receiveBitEnv).length) s = 0 :: 0 :: 0 :: bits.flatMap receiveBitEnv →
      ∃ (m m' k : Nat) (t t' u : State), execN (.rdReg addr index) m s = .next t
        ∧ execN (.wrRegIdx addr index) m' s = .next t' ∧ t'.cur.busy = false ∧ t'.cur.result = 0
        ∧ execN (.read addr) k (t'.accept { cmd := encode (.read addr), len := 1, txa := 0, rxa := s.cur.rxa }) = .next u
        ∧ t.cur.busy = false ∧ u.cur.busy = false ∧ t.cur.history = u.cur.history
        ∧ t.cur.result = (assembled bits).zeroExtend 32 <<< 3 ∧ u.cur.result = 0
        ∧ t.cur.scl = u.cur.scl ∧ t.cur.sda = u.cur.sda ∧ t.mem = u.mem)

/-! What an engine step leaves unchanged. -/

/-- 00_scope R9, 20_memory R56, 10_state R30: an engine step is one primitive: it appends one event and leaves RESULT and BUSY
alone, or it is finish, which appends none (that it is a step of its own with no event is the model's reading, log 15), writes
RESULT, clears BUSY and leaves the lines and caller memory alone. -/
def Obligations.EachStepIsOneEventOrFinish : Prop :=
  ∀ (i : Instr) (s t : State), exec i s = .next t →
    (∃ e, t.cur.history = s.cur.history ++ [e] ∧ t.cur.busy = s.cur.busy ∧ t.cur.result = s.cur.result
        ∧ t.cur.completed = s.cur.completed)
      ∨ (t = s.finish t.cur.result)

/-- 10_state R26, R35, 20_memory R59: an engine step leaves the latched operands, the parameters, the other ports, the
caller's acts and readings, and what the caller provides as they are, whichever the command. That the operands keep their values
at the finishing step too is the model's choice (log 7). -/
def Obligations.ExecKeepsOperandsAndOtherAgents : Prop :=
  ∀ (i : Instr) (s t : State), exec i s = .next t →
    t.cur.cmd = s.cur.cmd ∧ t.cur.len = s.cur.len ∧ t.cur.txa = s.cur.txa ∧ t.cur.rxa = s.cur.rxa
      ∧ t.cur.disturbed = s.cur.disturbed ∧ t.cfg = s.cfg ∧ t.sel = s.sel ∧ t.others = s.others
      ∧ t.writable = s.writable ∧ t.inbox = s.inbox ∧ t.replies = s.replies ∧ t.turn = s.turn

/-- 20_memory R59, 60_exceptions R225: an engine step of one port changes no other port. -/
def Obligations.ExecChangesNoOtherPort : Prop :=
  ∀ (i : Instr) (s t : State) (p : Nat), exec i s = .next t → p ≠ s.sel → t.port p = s.port p

/-- 10_state R21, R35: an engine step changes the drive level of a line only by SetLine of that line at the new level. -/
def Obligations.DriveChangesOnlyBySetLine : Prop :=
  ∀ (i : Instr) (s t : State) (l : Line), exec i s = .next t → t.cur.drive l ≠ s.cur.drive l →
    t.cur.history = s.cur.history ++ [.w l (t.cur.drive l)]

/-- 20_memory R52: an engine step leaves every byte of caller memory as it is, but the byte at RXA + IDX modulo 2^ADDR_W at
the MemWrite of a read, which takes SHIFT; and a command that has no receive buffer leaves all of it. -/
def Obligations.MemoryChangesOnlyAtTheReceivedByte : Prop :=
  ∀ (i : Instr) (s t : State) (a : Nat), exec i s = .next t →
    ((s.cur.pos = .memWrite → a ≠ bufAddr s.cfg.addrW s.cur.rxa s.cur.work.idx.toNat) →
        memFind a t.mem = memFind a s.mem)
      ∧ (s.cur.pos = .memWrite →
          memFind (bufAddr s.cfg.addrW s.cur.rxa s.cur.work.idx.toNat) t.mem = some s.cur.work.shift)
      ∧ ((∀ len, i.rxBytes len = 0) → t.mem = s.mem)

/-- 10_state R28, its column "used by": until it finishes, a command leaves the working registers it does not use as they
are. -/
def Obligations.WorkingRegistersOfOtherCommandsStay : Prop :=
  ∀ (i : Instr) (s t : State), exec i s = .next t → s.cur.pos ≠ .finish → s.cur.pos ≠ .finishFail →
    s.cur.pos ≠ .finishStall → i.reserved = false →
    (match i with
      | .init | .start | .stop | .sendBit _ => t.cur.work = s.cur.work
      | .recvBit => t.cur.work = { s.cur.work with sample := t.cur.work.sample, polls := t.cur.work.polls }
      | .sendByte _ => t.cur.work.idx = s.cur.work.idx ∧ t.cur.work.phase = s.cur.work.phase
          ∧ t.cur.work.polls = s.cur.work.polls
      | .recvByte _ => t.cur.work.acked = s.cur.work.acked ∧ t.cur.work.idx = s.cur.work.idx
          ∧ t.cur.work.phase = s.cur.work.phase
      | .write _ | .wrRegIdx _ _ | .wrReg _ _ _ | .wrRegs _ _ => t.cur.work.phase = s.cur.work.phase
          ∧ t.cur.work.polls = s.cur.work.polls
      | .read _ => t.cur.work.phase = s.cur.work.phase
      | _ => True)

/-! The machine as a whole. -/

/-- At reset the invariant holds. -/
def Obligations.ResetMeetsTheInvariant : Prop := inv State.reset = true

/-- Every step of the machine, whichever agent moves, keeps the invariant: caller memory in canonical form and within 2^ADDR_W,
the ports listed once each, RESULT[31:11] at 0, POS a position of the command in flight with BITCNT and IDX in their ranges,
every line released before it is read. -/
def Obligations.EveryStepKeepsTheInvariant : Prop := ∀ s t : State, inv s = true → step s = .next t → inv t = true

/-- In a state that meets the invariant no step loses its position: a POS that is no primitive of its command is never
reached (10_state R27, log 10). -/
def Obligations.NoStepLosesItsPosition : Prop := ∀ s : State, inv s = true → step s ≠ .fault .lostPosition

/-- 10_state R23: in a state that meets the invariant every GetLine is performed while the engine's own drive of the line is
1, so that the level read is wholly the environment's. -/
def Obligations.ReadsAreMadeWithTheLineReleased : Prop :=
  ∀ (s : State) (l : Line) (v : Level) (t : State), inv s = true → s.cur.busy = true →
    exec (decode s.cur.cmd) s = .next t → t.cur.history = s.cur.history ++ [.r l v] →
    s.cur.drive l = 1 ∧ v = s.envLevel

/-- 42_buffer_master R160, 40_bit_master R119: a Buffer Transfer command keeps the line levels of its positions: entered with
SCL at 0 or SDA at 1, every send_byte, receive_byte and stop of it is entered with SCL at 0, and from the end of each stop()
both lines are at 1. -/
def Obligations.TransactionKeepsItsLineLevels : Prop :=
  ∀ (i : Instr) (s t : State), isTransaction i = true → owns i s.cur = true → transactionLevels s.cur = true →
    exec i s = .next t → transactionLevels t.cur = true

/-- 40_bit_master R117: in a Buffer Transfer command, apart from the SDA change of start() that forms START and that of stop()
that forms STOP, SDA changes only while SCL is at 0. -/
def Obligations.SdaChangesOnlyWhileSclIsLow : Prop :=
  ∀ (i : Instr) (s t : State), isTransaction i = true → owns i s.cur = true → transactionLevels s.cur = true →
    exec i s = .next t → t.cur.sda ≠ s.cur.sda → formsCondition s.cur.pos = false → s.cur.scl = 0 ∧ t.cur.scl = 0

/-- 42_buffer_master R164, 70 R243: a Buffer Transfer command that finishes, with whatever STATUS, leaves both lines at 1. -/
def Obligations.TransactionEndsWithBothLinesReleased : Prop :=
  ∀ (i : Instr) (s t : State), isTransaction i = true → owns i s.cur = true → transactionLevels s.cur = true →
    s.cur.busy = true → exec i s = .next t → t.cur.busy = false → t.cur.scl = 1 ∧ t.cur.sda = 1

/-- 10_state R30, R31: RESULT of a port changes only in the step in which its command finishes, BUSY going from 1 to 0, or by a
reset of the engine, which is the host's act (log 4) and leaves RESULT at the model's reset value (log 6). -/
def Obligations.ResultChangesOnlyAtCompletion : Prop :=
  ∀ (s t : State) (p : Nat), step s = .next t → (t.port p).result ≠ (s.port p).result →
    ((s.port p).busy = true ∧ (t.port p).busy = false) ∨ (s.mover = some .host ∧ s.inbox.head? = some .reset)
end

