-- ==== Sys2Proof/Laws/State.lean ====
section
/-! SUPPORT. What each update of State leaves in each field: one lemma per field per update, for simp, so that no proof
unfolds a record update. -/

namespace Sys2Proof.Machine

/-! The Line Driver's byte carries the level (20_memory R51). -/

@[simp] theorem lineByteR_lineByteW (v : Level) : lineByteR (lineByteW v) = v := by revert v; decide

/-! State.log -/

@[simp] theorem State.log_cfg (e : Event) (s : State) : (s.log e).cfg = s.cfg := rfl
@[simp] theorem State.log_sel (e : Event) (s : State) : (s.log e).sel = s.sel := rfl
@[simp] theorem State.log_others (e : Event) (s : State) : (s.log e).others = s.others := rfl
@[simp] theorem State.log_mem (e : Event) (s : State) : (s.log e).mem = s.mem := rfl
@[simp] theorem State.log_writable (e : Event) (s : State) : (s.log e).writable = s.writable := rfl
@[simp] theorem State.log_inbox (e : Event) (s : State) : (s.log e).inbox = s.inbox := rfl
@[simp] theorem State.log_replies (e : Event) (s : State) : (s.log e).replies = s.replies := rfl
@[simp] theorem State.log_turn (e : Event) (s : State) : (s.log e).turn = s.turn := rfl
@[simp] theorem State.log_draws (e : Event) (s : State) : (s.log e).draws = s.draws := rfl
@[simp] theorem State.log_cur_scl (e : Event) (s : State) : (s.log e).cur.scl = s.cur.scl := rfl
@[simp] theorem State.log_cur_sda (e : Event) (s : State) : (s.log e).cur.sda = s.cur.sda := rfl
@[simp] theorem State.log_cur_busy (e : Event) (s : State) : (s.log e).cur.busy = s.cur.busy := rfl
@[simp] theorem State.log_cur_result (e : Event) (s : State) : (s.log e).cur.result = s.cur.result := rfl
@[simp] theorem State.log_cur_completed (e : Event) (s : State) : (s.log e).cur.completed = s.cur.completed := rfl
@[simp] theorem State.log_cur_cmd (e : Event) (s : State) : (s.log e).cur.cmd = s.cur.cmd := rfl
@[simp] theorem State.log_cur_len (e : Event) (s : State) : (s.log e).cur.len = s.cur.len := rfl
@[simp] theorem State.log_cur_txa (e : Event) (s : State) : (s.log e).cur.txa = s.cur.txa := rfl
@[simp] theorem State.log_cur_rxa (e : Event) (s : State) : (s.log e).cur.rxa = s.cur.rxa := rfl
@[simp] theorem State.log_cur_pos (e : Event) (s : State) : (s.log e).cur.pos = s.cur.pos := rfl
@[simp] theorem State.log_cur_work (e : Event) (s : State) : (s.log e).cur.work = s.cur.work := rfl
@[simp] theorem State.log_cur_history (e : Event) (s : State) : (s.log e).cur.history = s.cur.history ++ [e] := rfl
@[simp] theorem State.log_cur_disturbed (e : Event) (s : State) : (s.log e).cur.disturbed = s.cur.disturbed := rfl
@[simp] theorem State.log_cur_env (e : Event) (s : State) : (s.log e).cur.env = s.cur.env := rfl
@[simp] theorem State.log_cur_presented (e : Event) (s : State) : (s.log e).cur.presented = s.cur.presented := rfl

/-! State.goto -/

@[simp] theorem State.goto_cfg (p : Pos) (s : State) : (s.goto p).cfg = s.cfg := rfl
@[simp] theorem State.goto_sel (p : Pos) (s : State) : (s.goto p).sel = s.sel := rfl
@[simp] theorem State.goto_others (p : Pos) (s : State) : (s.goto p).others = s.others := rfl
@[simp] theorem State.goto_mem (p : Pos) (s : State) : (s.goto p).mem = s.mem := rfl
@[simp] theorem State.goto_writable (p : Pos) (s : State) : (s.goto p).writable = s.writable := rfl
@[simp] theorem State.goto_inbox (p : Pos) (s : State) : (s.goto p).inbox = s.inbox := rfl
@[simp] theorem State.goto_replies (p : Pos) (s : State) : (s.goto p).replies = s.replies := rfl
@[simp] theorem State.goto_turn (p : Pos) (s : State) : (s.goto p).turn = s.turn := rfl
@[simp] theorem State.goto_draws (p : Pos) (s : State) : (s.goto p).draws = s.draws := rfl
@[simp] theorem State.goto_cur_scl (p : Pos) (s : State) : (s.goto p).cur.scl = s.cur.scl := rfl
@[simp] theorem State.goto_cur_sda (p : Pos) (s : State) : (s.goto p).cur.sda = s.cur.sda := rfl
@[simp] theorem State.goto_cur_busy (p : Pos) (s : State) : (s.goto p).cur.busy = s.cur.busy := rfl
@[simp] theorem State.goto_cur_result (p : Pos) (s : State) : (s.goto p).cur.result = s.cur.result := rfl
@[simp] theorem State.goto_cur_completed (p : Pos) (s : State) : (s.goto p).cur.completed = s.cur.completed := rfl
@[simp] theorem State.goto_cur_cmd (p : Pos) (s : State) : (s.goto p).cur.cmd = s.cur.cmd := rfl
@[simp] theorem State.goto_cur_len (p : Pos) (s : State) : (s.goto p).cur.len = s.cur.len := rfl
@[simp] theorem State.goto_cur_txa (p : Pos) (s : State) : (s.goto p).cur.txa = s.cur.txa := rfl
@[simp] theorem State.goto_cur_rxa (p : Pos) (s : State) : (s.goto p).cur.rxa = s.cur.rxa := rfl
@[simp] theorem State.goto_cur_pos (p : Pos) (s : State) : (s.goto p).cur.pos = p := rfl
@[simp] theorem State.goto_cur_work (p : Pos) (s : State) : (s.goto p).cur.work = s.cur.work := rfl
@[simp] theorem State.goto_cur_history (p : Pos) (s : State) : (s.goto p).cur.history = s.cur.history := rfl
@[simp] theorem State.goto_cur_disturbed (p : Pos) (s : State) : (s.goto p).cur.disturbed = s.cur.disturbed := rfl
@[simp] theorem State.goto_cur_env (p : Pos) (s : State) : (s.goto p).cur.env = s.cur.env := rfl
@[simp] theorem State.goto_cur_presented (p : Pos) (s : State) : (s.goto p).cur.presented = s.cur.presented := rfl

/-! State.setWork -/

@[simp] theorem State.setWork_cfg (f : Work → Work) (s : State) : (s.setWork f).cfg = s.cfg := rfl
@[simp] theorem State.setWork_sel (f : Work → Work) (s : State) : (s.setWork f).sel = s.sel := rfl
@[simp] theorem State.setWork_others (f : Work → Work) (s : State) : (s.setWork f).others = s.others := rfl
@[simp] theorem State.setWork_mem (f : Work → Work) (s : State) : (s.setWork f).mem = s.mem := rfl
@[simp] theorem State.setWork_writable (f : Work → Work) (s : State) : (s.setWork f).writable = s.writable := rfl
@[simp] theorem State.setWork_inbox (f : Work → Work) (s : State) : (s.setWork f).inbox = s.inbox := rfl
@[simp] theorem State.setWork_replies (f : Work → Work) (s : State) : (s.setWork f).replies = s.replies := rfl
@[simp] theorem State.setWork_turn (f : Work → Work) (s : State) : (s.setWork f).turn = s.turn := rfl
@[simp] theorem State.setWork_draws (f : Work → Work) (s : State) : (s.setWork f).draws = s.draws := rfl
@[simp] theorem State.setWork_cur_scl (f : Work → Work) (s : State) : (s.setWork f).cur.scl = s.cur.scl := rfl
@[simp] theorem State.setWork_cur_sda (f : Work → Work) (s : State) : (s.setWork f).cur.sda = s.cur.sda := rfl
@[simp] theorem State.setWork_cur_busy (f : Work → Work) (s : State) : (s.setWork f).cur.busy = s.cur.busy := rfl
@[simp] theorem State.setWork_cur_result (f : Work → Work) (s : State) : (s.setWork f).cur.result = s.cur.result := rfl
@[simp] theorem State.setWork_cur_completed (f : Work → Work) (s : State) : (s.setWork f).cur.completed = s.cur.completed := rfl
@[simp] theorem State.setWork_cur_cmd (f : Work → Work) (s : State) : (s.setWork f).cur.cmd = s.cur.cmd := rfl
@[simp] theorem State.setWork_cur_len (f : Work → Work) (s : State) : (s.setWork f).cur.len = s.cur.len := rfl
@[simp] theorem State.setWork_cur_txa (f : Work → Work) (s : State) : (s.setWork f).cur.txa = s.cur.txa := rfl
@[simp] theorem State.setWork_cur_rxa (f : Work → Work) (s : State) : (s.setWork f).cur.rxa = s.cur.rxa := rfl
@[simp] theorem State.setWork_cur_pos (f : Work → Work) (s : State) : (s.setWork f).cur.pos = s.cur.pos := rfl
@[simp] theorem State.setWork_cur_work (f : Work → Work) (s : State) : (s.setWork f).cur.work = f s.cur.work := rfl
@[simp] theorem State.setWork_cur_history (f : Work → Work) (s : State) : (s.setWork f).cur.history = s.cur.history := rfl
@[simp] theorem State.setWork_cur_disturbed (f : Work → Work) (s : State) : (s.setWork f).cur.disturbed = s.cur.disturbed := rfl
@[simp] theorem State.setWork_cur_env (f : Work → Work) (s : State) : (s.setWork f).cur.env = s.cur.env := rfl
@[simp] theorem State.setWork_cur_presented (f : Work → Work) (s : State) : (s.setWork f).cur.presented = s.cur.presented := rfl

/-! State.setScl -/

@[simp] theorem State.setScl_cfg (v : Level) (s : State) : (s.setLine .scl v).cfg = s.cfg := rfl
@[simp] theorem State.setScl_sel (v : Level) (s : State) : (s.setLine .scl v).sel = s.sel := rfl
@[simp] theorem State.setScl_others (v : Level) (s : State) : (s.setLine .scl v).others = s.others := rfl
@[simp] theorem State.setScl_mem (v : Level) (s : State) : (s.setLine .scl v).mem = s.mem := rfl
@[simp] theorem State.setScl_writable (v : Level) (s : State) : (s.setLine .scl v).writable = s.writable := rfl
@[simp] theorem State.setScl_inbox (v : Level) (s : State) : (s.setLine .scl v).inbox = s.inbox := rfl
@[simp] theorem State.setScl_replies (v : Level) (s : State) : (s.setLine .scl v).replies = s.replies := rfl
@[simp] theorem State.setScl_turn (v : Level) (s : State) : (s.setLine .scl v).turn = s.turn := rfl
@[simp] theorem State.setScl_draws (v : Level) (s : State) : (s.setLine .scl v).draws = s.draws := rfl
@[simp] theorem State.setScl_cur_scl (v : Level) (s : State) : (s.setLine .scl v).cur.scl = v := by simp [State.setLine, PortState.setDrive]
@[simp] theorem State.setScl_cur_sda (v : Level) (s : State) : (s.setLine .scl v).cur.sda = s.cur.sda := rfl
@[simp] theorem State.setScl_cur_busy (v : Level) (s : State) : (s.setLine .scl v).cur.busy = s.cur.busy := rfl
@[simp] theorem State.setScl_cur_result (v : Level) (s : State) : (s.setLine .scl v).cur.result = s.cur.result := rfl
@[simp] theorem State.setScl_cur_completed (v : Level) (s : State) : (s.setLine .scl v).cur.completed = s.cur.completed := rfl
@[simp] theorem State.setScl_cur_cmd (v : Level) (s : State) : (s.setLine .scl v).cur.cmd = s.cur.cmd := rfl
@[simp] theorem State.setScl_cur_len (v : Level) (s : State) : (s.setLine .scl v).cur.len = s.cur.len := rfl
@[simp] theorem State.setScl_cur_txa (v : Level) (s : State) : (s.setLine .scl v).cur.txa = s.cur.txa := rfl
@[simp] theorem State.setScl_cur_rxa (v : Level) (s : State) : (s.setLine .scl v).cur.rxa = s.cur.rxa := rfl
@[simp] theorem State.setScl_cur_pos (v : Level) (s : State) : (s.setLine .scl v).cur.pos = s.cur.pos := rfl
@[simp] theorem State.setScl_cur_work (v : Level) (s : State) : (s.setLine .scl v).cur.work = s.cur.work := rfl
@[simp] theorem State.setScl_cur_history (v : Level) (s : State) : (s.setLine .scl v).cur.history = s.cur.history ++ [.w .scl v] := rfl
@[simp] theorem State.setScl_cur_disturbed (v : Level) (s : State) : (s.setLine .scl v).cur.disturbed = s.cur.disturbed := rfl
@[simp] theorem State.setScl_cur_env (v : Level) (s : State) : (s.setLine .scl v).cur.env = s.cur.env := rfl
@[simp] theorem State.setScl_cur_presented (v : Level) (s : State) : (s.setLine .scl v).cur.presented = s.cur.presented := rfl

/-! State.setSda -/

@[simp] theorem State.setSda_cfg (v : Level) (s : State) : (s.setLine .sda v).cfg = s.cfg := rfl
@[simp] theorem State.setSda_sel (v : Level) (s : State) : (s.setLine .sda v).sel = s.sel := rfl
@[simp] theorem State.setSda_others (v : Level) (s : State) : (s.setLine .sda v).others = s.others := rfl
@[simp] theorem State.setSda_mem (v : Level) (s : State) : (s.setLine .sda v).mem = s.mem := rfl
@[simp] theorem State.setSda_writable (v : Level) (s : State) : (s.setLine .sda v).writable = s.writable := rfl
@[simp] theorem State.setSda_inbox (v : Level) (s : State) : (s.setLine .sda v).inbox = s.inbox := rfl
@[simp] theorem State.setSda_replies (v : Level) (s : State) : (s.setLine .sda v).replies = s.replies := rfl
@[simp] theorem State.setSda_turn (v : Level) (s : State) : (s.setLine .sda v).turn = s.turn := rfl
@[simp] theorem State.setSda_draws (v : Level) (s : State) : (s.setLine .sda v).draws = s.draws := rfl
@[simp] theorem State.setSda_cur_scl (v : Level) (s : State) : (s.setLine .sda v).cur.scl = s.cur.scl := rfl
@[simp] theorem State.setSda_cur_sda (v : Level) (s : State) : (s.setLine .sda v).cur.sda = v := by simp [State.setLine, PortState.setDrive]
@[simp] theorem State.setSda_cur_busy (v : Level) (s : State) : (s.setLine .sda v).cur.busy = s.cur.busy := rfl
@[simp] theorem State.setSda_cur_result (v : Level) (s : State) : (s.setLine .sda v).cur.result = s.cur.result := rfl
@[simp] theorem State.setSda_cur_completed (v : Level) (s : State) : (s.setLine .sda v).cur.completed = s.cur.completed := rfl
@[simp] theorem State.setSda_cur_cmd (v : Level) (s : State) : (s.setLine .sda v).cur.cmd = s.cur.cmd := rfl
@[simp] theorem State.setSda_cur_len (v : Level) (s : State) : (s.setLine .sda v).cur.len = s.cur.len := rfl
@[simp] theorem State.setSda_cur_txa (v : Level) (s : State) : (s.setLine .sda v).cur.txa = s.cur.txa := rfl
@[simp] theorem State.setSda_cur_rxa (v : Level) (s : State) : (s.setLine .sda v).cur.rxa = s.cur.rxa := rfl
@[simp] theorem State.setSda_cur_pos (v : Level) (s : State) : (s.setLine .sda v).cur.pos = s.cur.pos := rfl
@[simp] theorem State.setSda_cur_work (v : Level) (s : State) : (s.setLine .sda v).cur.work = s.cur.work := rfl
@[simp] theorem State.setSda_cur_history (v : Level) (s : State) : (s.setLine .sda v).cur.history = s.cur.history ++ [.w .sda v] := rfl
@[simp] theorem State.setSda_cur_disturbed (v : Level) (s : State) : (s.setLine .sda v).cur.disturbed = s.cur.disturbed := rfl
@[simp] theorem State.setSda_cur_env (v : Level) (s : State) : (s.setLine .sda v).cur.env = s.cur.env := rfl
@[simp] theorem State.setSda_cur_presented (v : Level) (s : State) : (s.setLine .sda v).cur.presented = s.cur.presented := rfl

/-! State.delay -/

@[simp] theorem State.delay_cfg (n : Nat) (s : State) : (s.delay n).cfg = s.cfg := rfl
@[simp] theorem State.delay_sel (n : Nat) (s : State) : (s.delay n).sel = s.sel := rfl
@[simp] theorem State.delay_others (n : Nat) (s : State) : (s.delay n).others = s.others := rfl
@[simp] theorem State.delay_mem (n : Nat) (s : State) : (s.delay n).mem = s.mem := rfl
@[simp] theorem State.delay_writable (n : Nat) (s : State) : (s.delay n).writable = s.writable := rfl
@[simp] theorem State.delay_inbox (n : Nat) (s : State) : (s.delay n).inbox = s.inbox := rfl
@[simp] theorem State.delay_replies (n : Nat) (s : State) : (s.delay n).replies = s.replies := rfl
@[simp] theorem State.delay_turn (n : Nat) (s : State) : (s.delay n).turn = s.turn := rfl
@[simp] theorem State.delay_draws (n : Nat) (s : State) : (s.delay n).draws = s.draws := rfl
@[simp] theorem State.delay_cur_scl (n : Nat) (s : State) : (s.delay n).cur.scl = s.cur.scl := rfl
@[simp] theorem State.delay_cur_sda (n : Nat) (s : State) : (s.delay n).cur.sda = s.cur.sda := rfl
@[simp] theorem State.delay_cur_busy (n : Nat) (s : State) : (s.delay n).cur.busy = s.cur.busy := rfl
@[simp] theorem State.delay_cur_result (n : Nat) (s : State) : (s.delay n).cur.result = s.cur.result := rfl
@[simp] theorem State.delay_cur_completed (n : Nat) (s : State) : (s.delay n).cur.completed = s.cur.completed := rfl
@[simp] theorem State.delay_cur_cmd (n : Nat) (s : State) : (s.delay n).cur.cmd = s.cur.cmd := rfl
@[simp] theorem State.delay_cur_len (n : Nat) (s : State) : (s.delay n).cur.len = s.cur.len := rfl
@[simp] theorem State.delay_cur_txa (n : Nat) (s : State) : (s.delay n).cur.txa = s.cur.txa := rfl
@[simp] theorem State.delay_cur_rxa (n : Nat) (s : State) : (s.delay n).cur.rxa = s.cur.rxa := rfl
@[simp] theorem State.delay_cur_pos (n : Nat) (s : State) : (s.delay n).cur.pos = s.cur.pos := rfl
@[simp] theorem State.delay_cur_work (n : Nat) (s : State) : (s.delay n).cur.work = s.cur.work := rfl
@[simp] theorem State.delay_cur_history (n : Nat) (s : State) : (s.delay n).cur.history = s.cur.history ++ [.d n] := rfl
@[simp] theorem State.delay_cur_disturbed (n : Nat) (s : State) : (s.delay n).cur.disturbed = s.cur.disturbed := rfl
@[simp] theorem State.delay_cur_env (n : Nat) (s : State) : (s.delay n).cur.env = s.cur.env := rfl
@[simp] theorem State.delay_cur_presented (n : Nat) (s : State) : (s.delay n).cur.presented = s.cur.presented := rfl

/-! State.wait -/

@[simp] theorem State.wait_cfg (s : State) : (s.wait).cfg = s.cfg := rfl
@[simp] theorem State.wait_sel (s : State) : (s.wait).sel = s.sel := rfl
@[simp] theorem State.wait_others (s : State) : (s.wait).others = s.others := rfl
@[simp] theorem State.wait_mem (s : State) : (s.wait).mem = s.mem := rfl
@[simp] theorem State.wait_writable (s : State) : (s.wait).writable = s.writable := rfl
@[simp] theorem State.wait_inbox (s : State) : (s.wait).inbox = s.inbox := rfl
@[simp] theorem State.wait_replies (s : State) : (s.wait).replies = s.replies := rfl
@[simp] theorem State.wait_turn (s : State) : (s.wait).turn = s.turn := rfl
@[simp] theorem State.wait_draws (s : State) : (s.wait).draws = s.draws := rfl
@[simp] theorem State.wait_cur_scl (s : State) : (s.wait).cur.scl = s.cur.scl := rfl
@[simp] theorem State.wait_cur_sda (s : State) : (s.wait).cur.sda = s.cur.sda := rfl
@[simp] theorem State.wait_cur_busy (s : State) : (s.wait).cur.busy = s.cur.busy := rfl
@[simp] theorem State.wait_cur_result (s : State) : (s.wait).cur.result = s.cur.result := rfl
@[simp] theorem State.wait_cur_completed (s : State) : (s.wait).cur.completed = s.cur.completed := rfl
@[simp] theorem State.wait_cur_cmd (s : State) : (s.wait).cur.cmd = s.cur.cmd := rfl
@[simp] theorem State.wait_cur_len (s : State) : (s.wait).cur.len = s.cur.len := rfl
@[simp] theorem State.wait_cur_txa (s : State) : (s.wait).cur.txa = s.cur.txa := rfl
@[simp] theorem State.wait_cur_rxa (s : State) : (s.wait).cur.rxa = s.cur.rxa := rfl
@[simp] theorem State.wait_cur_pos (s : State) : (s.wait).cur.pos = s.cur.pos := rfl
@[simp] theorem State.wait_cur_work (s : State) : (s.wait).cur.work = s.cur.work := rfl
@[simp] theorem State.wait_cur_history (s : State) : (s.wait).cur.history = s.cur.history ++ [.d s.cfg.tUs] := rfl
@[simp] theorem State.wait_cur_disturbed (s : State) : (s.wait).cur.disturbed = s.cur.disturbed := rfl
@[simp] theorem State.wait_cur_env (s : State) : (s.wait).cur.env = s.cur.env := rfl
@[simp] theorem State.wait_cur_presented (s : State) : (s.wait).cur.presented = s.cur.presented := rfl

/-! State.diag -/

@[simp] theorem State.diag_cfg (e : DiagEvent) (s : State) : (s.diag e).cfg = s.cfg := rfl
@[simp] theorem State.diag_sel (e : DiagEvent) (s : State) : (s.diag e).sel = s.sel := rfl
@[simp] theorem State.diag_others (e : DiagEvent) (s : State) : (s.diag e).others = s.others := rfl
@[simp] theorem State.diag_mem (e : DiagEvent) (s : State) : (s.diag e).mem = s.mem := rfl
@[simp] theorem State.diag_writable (e : DiagEvent) (s : State) : (s.diag e).writable = s.writable := rfl
@[simp] theorem State.diag_inbox (e : DiagEvent) (s : State) : (s.diag e).inbox = s.inbox := rfl
@[simp] theorem State.diag_replies (e : DiagEvent) (s : State) : (s.diag e).replies = s.replies := rfl
@[simp] theorem State.diag_turn (e : DiagEvent) (s : State) : (s.diag e).turn = s.turn := rfl
@[simp] theorem State.diag_draws (e : DiagEvent) (s : State) : (s.diag e).draws = s.draws := rfl
@[simp] theorem State.diag_cur_scl (e : DiagEvent) (s : State) : (s.diag e).cur.scl = s.cur.scl := rfl
@[simp] theorem State.diag_cur_sda (e : DiagEvent) (s : State) : (s.diag e).cur.sda = s.cur.sda := rfl
@[simp] theorem State.diag_cur_busy (e : DiagEvent) (s : State) : (s.diag e).cur.busy = s.cur.busy := rfl
@[simp] theorem State.diag_cur_result (e : DiagEvent) (s : State) : (s.diag e).cur.result = s.cur.result := rfl
@[simp] theorem State.diag_cur_completed (e : DiagEvent) (s : State) : (s.diag e).cur.completed = s.cur.completed := rfl
@[simp] theorem State.diag_cur_cmd (e : DiagEvent) (s : State) : (s.diag e).cur.cmd = s.cur.cmd := rfl
@[simp] theorem State.diag_cur_len (e : DiagEvent) (s : State) : (s.diag e).cur.len = s.cur.len := rfl
@[simp] theorem State.diag_cur_txa (e : DiagEvent) (s : State) : (s.diag e).cur.txa = s.cur.txa := rfl
@[simp] theorem State.diag_cur_rxa (e : DiagEvent) (s : State) : (s.diag e).cur.rxa = s.cur.rxa := rfl
@[simp] theorem State.diag_cur_pos (e : DiagEvent) (s : State) : (s.diag e).cur.pos = s.cur.pos := rfl
@[simp] theorem State.diag_cur_work (e : DiagEvent) (s : State) : (s.diag e).cur.work = s.cur.work := rfl
@[simp] theorem State.diag_cur_history (e : DiagEvent) (s : State) : (s.diag e).cur.history = s.cur.history ++ [.g e] := rfl
@[simp] theorem State.diag_cur_disturbed (e : DiagEvent) (s : State) : (s.diag e).cur.disturbed = s.cur.disturbed := rfl
@[simp] theorem State.diag_cur_env (e : DiagEvent) (s : State) : (s.diag e).cur.env = s.cur.env := rfl
@[simp] theorem State.diag_cur_presented (e : DiagEvent) (s : State) : (s.diag e).cur.presented = s.cur.presented := rfl

/-! State.drawn -/

@[simp] theorem State.drawn_cfg (s : State) : (s.drawn).cfg = s.cfg := by unfold State.drawn; split <;> rfl
@[simp] theorem State.drawn_sel (s : State) : (s.drawn).sel = s.sel := by unfold State.drawn; split <;> rfl
@[simp] theorem State.drawn_others (s : State) : (s.drawn).others = s.others := by unfold State.drawn; split <;> rfl
@[simp] theorem State.drawn_mem (s : State) : (s.drawn).mem = s.mem := by unfold State.drawn; split <;> rfl
@[simp] theorem State.drawn_writable (s : State) : (s.drawn).writable = s.writable := by unfold State.drawn; split <;> rfl
@[simp] theorem State.drawn_inbox (s : State) : (s.drawn).inbox = s.inbox := by unfold State.drawn; split <;> rfl
@[simp] theorem State.drawn_replies (s : State) : (s.drawn).replies = s.replies := by unfold State.drawn; split <;> rfl
@[simp] theorem State.drawn_turn (s : State) : (s.drawn).turn = s.turn := by unfold State.drawn; split <;> rfl
@[simp] theorem State.drawn_draws (s : State) : (s.drawn).draws = s.draws := by unfold State.drawn; split <;> rfl
@[simp] theorem State.drawn_cur_scl (s : State) : (s.drawn).cur.scl = s.cur.scl := by unfold State.drawn; split <;> rfl
@[simp] theorem State.drawn_cur_sda (s : State) : (s.drawn).cur.sda = s.cur.sda := by unfold State.drawn; split <;> rfl
@[simp] theorem State.drawn_cur_busy (s : State) : (s.drawn).cur.busy = s.cur.busy := by unfold State.drawn; split <;> rfl
@[simp] theorem State.drawn_cur_result (s : State) : (s.drawn).cur.result = s.cur.result := by unfold State.drawn; split <;> rfl
@[simp] theorem State.drawn_cur_completed (s : State) : (s.drawn).cur.completed = s.cur.completed := by unfold State.drawn; split <;> rfl
@[simp] theorem State.drawn_cur_cmd (s : State) : (s.drawn).cur.cmd = s.cur.cmd := by unfold State.drawn; split <;> rfl
@[simp] theorem State.drawn_cur_len (s : State) : (s.drawn).cur.len = s.cur.len := by unfold State.drawn; split <;> rfl
@[simp] theorem State.drawn_cur_txa (s : State) : (s.drawn).cur.txa = s.cur.txa := by unfold State.drawn; split <;> rfl
@[simp] theorem State.drawn_cur_rxa (s : State) : (s.drawn).cur.rxa = s.cur.rxa := by unfold State.drawn; split <;> rfl
@[simp] theorem State.drawn_cur_pos (s : State) : (s.drawn).cur.pos = s.cur.pos := by unfold State.drawn; split <;> rfl
@[simp] theorem State.drawn_cur_work (s : State) : (s.drawn).cur.work = s.cur.work := by unfold State.drawn; split <;> rfl
@[simp] theorem State.drawn_cur_history (s : State) : (s.drawn).cur.history = s.cur.history := by unfold State.drawn; split <;> rfl
@[simp] theorem State.drawn_cur_disturbed (s : State) : (s.drawn).cur.disturbed = s.cur.disturbed := by unfold State.drawn; split <;> rfl

/-! State.getLine -/

@[simp] theorem State.getLine_cfg (l : Line) (s : State) : (s.getLine l).cfg = s.cfg := by simp [State.getLine]
@[simp] theorem State.getLine_sel (l : Line) (s : State) : (s.getLine l).sel = s.sel := by simp [State.getLine]
@[simp] theorem State.getLine_others (l : Line) (s : State) : (s.getLine l).others = s.others := by simp [State.getLine]
@[simp] theorem State.getLine_mem (l : Line) (s : State) : (s.getLine l).mem = s.mem := by simp [State.getLine]
@[simp] theorem State.getLine_writable (l : Line) (s : State) : (s.getLine l).writable = s.writable := by simp [State.getLine]
@[simp] theorem State.getLine_inbox (l : Line) (s : State) : (s.getLine l).inbox = s.inbox := by simp [State.getLine]
@[simp] theorem State.getLine_replies (l : Line) (s : State) : (s.getLine l).replies = s.replies := by simp [State.getLine]
@[simp] theorem State.getLine_turn (l : Line) (s : State) : (s.getLine l).turn = s.turn := by simp [State.getLine]
@[simp] theorem State.getLine_draws (l : Line) (s : State) : (s.getLine l).draws = s.draws := by simp [State.getLine]
@[simp] theorem State.getLine_cur_scl (l : Line) (s : State) : (s.getLine l).cur.scl = s.cur.scl := by simp [State.getLine]
@[simp] theorem State.getLine_cur_sda (l : Line) (s : State) : (s.getLine l).cur.sda = s.cur.sda := by simp [State.getLine]
@[simp] theorem State.getLine_cur_busy (l : Line) (s : State) : (s.getLine l).cur.busy = s.cur.busy := by simp [State.getLine]
@[simp] theorem State.getLine_cur_result (l : Line) (s : State) : (s.getLine l).cur.result = s.cur.result := by simp [State.getLine]
@[simp] theorem State.getLine_cur_completed (l : Line) (s : State) : (s.getLine l).cur.completed = s.cur.completed := by simp [State.getLine]
@[simp] theorem State.getLine_cur_cmd (l : Line) (s : State) : (s.getLine l).cur.cmd = s.cur.cmd := by simp [State.getLine]
@[simp] theorem State.getLine_cur_len (l : Line) (s : State) : (s.getLine l).cur.len = s.cur.len := by simp [State.getLine]
@[simp] theorem State.getLine_cur_txa (l : Line) (s : State) : (s.getLine l).cur.txa = s.cur.txa := by simp [State.getLine]
@[simp] theorem State.getLine_cur_rxa (l : Line) (s : State) : (s.getLine l).cur.rxa = s.cur.rxa := by simp [State.getLine]
@[simp] theorem State.getLine_cur_pos (l : Line) (s : State) : (s.getLine l).cur.pos = s.cur.pos := by simp [State.getLine]
@[simp] theorem State.getLine_cur_work (l : Line) (s : State) : (s.getLine l).cur.work = { s.cur.work with sample := s.level l } := by simp [State.getLine]
@[simp] theorem State.getLine_cur_history (l : Line) (s : State) : (s.getLine l).cur.history = s.cur.history ++ [.r l (s.level l)] := by simp [State.getLine]
@[simp] theorem State.getLine_cur_disturbed (l : Line) (s : State) : (s.getLine l).cur.disturbed = s.cur.disturbed := by simp [State.getLine]
@[simp] theorem State.getLine_cur_env (l : Line) (s : State) : (s.getLine l).cur.env = s.drawn.cur.env := by simp [State.getLine]
@[simp] theorem State.getLine_cur_presented (l : Line) (s : State) : (s.getLine l).cur.presented = s.drawn.cur.presented := by simp [State.getLine]

/-! State.finish -/

@[simp] theorem State.finish_cfg (r : Word) (s : State) : (s.finish r).cfg = s.cfg := rfl
@[simp] theorem State.finish_sel (r : Word) (s : State) : (s.finish r).sel = s.sel := rfl
@[simp] theorem State.finish_others (r : Word) (s : State) : (s.finish r).others = s.others := rfl
@[simp] theorem State.finish_mem (r : Word) (s : State) : (s.finish r).mem = s.mem := rfl
@[simp] theorem State.finish_writable (r : Word) (s : State) : (s.finish r).writable = s.writable := rfl
@[simp] theorem State.finish_inbox (r : Word) (s : State) : (s.finish r).inbox = s.inbox := rfl
@[simp] theorem State.finish_replies (r : Word) (s : State) : (s.finish r).replies = s.replies := rfl
@[simp] theorem State.finish_turn (r : Word) (s : State) : (s.finish r).turn = s.turn := rfl
@[simp] theorem State.finish_draws (r : Word) (s : State) : (s.finish r).draws = s.draws + 1 := rfl
@[simp] theorem State.finish_cur_scl (r : Word) (s : State) : (s.finish r).cur.scl = s.cur.scl := rfl
@[simp] theorem State.finish_cur_sda (r : Word) (s : State) : (s.finish r).cur.sda = s.cur.sda := rfl
@[simp] theorem State.finish_cur_busy (r : Word) (s : State) : (s.finish r).cur.busy = false := rfl
@[simp] theorem State.finish_cur_result (r : Word) (s : State) : (s.finish r).cur.result = r := rfl
@[simp] theorem State.finish_cur_completed (r : Word) (s : State) : (s.finish r).cur.completed = true := rfl
@[simp] theorem State.finish_cur_cmd (r : Word) (s : State) : (s.finish r).cur.cmd = s.cur.cmd := rfl
@[simp] theorem State.finish_cur_len (r : Word) (s : State) : (s.finish r).cur.len = s.cur.len := rfl
@[simp] theorem State.finish_cur_txa (r : Word) (s : State) : (s.finish r).cur.txa = s.cur.txa := rfl
@[simp] theorem State.finish_cur_rxa (r : Word) (s : State) : (s.finish r).cur.rxa = s.cur.rxa := rfl
@[simp] theorem State.finish_cur_pos (r : Word) (s : State) : (s.finish r).cur.pos = s.cur.pos := rfl
@[simp] theorem State.finish_cur_work (r : Word) (s : State) : (s.finish r).cur.work = freeWork s.draws := rfl
@[simp] theorem State.finish_cur_history (r : Word) (s : State) : (s.finish r).cur.history = s.cur.history := rfl
@[simp] theorem State.finish_cur_disturbed (r : Word) (s : State) : (s.finish r).cur.disturbed = s.cur.disturbed := rfl
@[simp] theorem State.finish_cur_env (r : Word) (s : State) : (s.finish r).cur.env = s.cur.env := rfl
@[simp] theorem State.finish_cur_presented (r : Word) (s : State) : (s.finish r).cur.presented = s.cur.presented := rfl

/-! State.accept -/

@[simp] theorem State.accept_cfg (b : Bundle) (s : State) : (s.accept b).cfg = s.cfg := rfl
@[simp] theorem State.accept_sel (b : Bundle) (s : State) : (s.accept b).sel = s.sel := rfl
@[simp] theorem State.accept_others (b : Bundle) (s : State) : (s.accept b).others = s.others := rfl
@[simp] theorem State.accept_mem (b : Bundle) (s : State) : (s.accept b).mem = s.mem := rfl
@[simp] theorem State.accept_writable (b : Bundle) (s : State) : (s.accept b).writable = s.writable := rfl
@[simp] theorem State.accept_inbox (b : Bundle) (s : State) : (s.accept b).inbox = s.inbox := rfl
@[simp] theorem State.accept_replies (b : Bundle) (s : State) : (s.accept b).replies = s.replies := rfl
@[simp] theorem State.accept_turn (b : Bundle) (s : State) : (s.accept b).turn = s.turn := rfl
@[simp] theorem State.accept_draws (b : Bundle) (s : State) : (s.accept b).draws = s.draws + 1 := rfl
@[simp] theorem State.accept_cur_scl (b : Bundle) (s : State) : (s.accept b).cur.scl = s.cur.scl := rfl
@[simp] theorem State.accept_cur_sda (b : Bundle) (s : State) : (s.accept b).cur.sda = s.cur.sda := rfl
@[simp] theorem State.accept_cur_busy (b : Bundle) (s : State) : (s.accept b).cur.busy = true := rfl
@[simp] theorem State.accept_cur_result (b : Bundle) (s : State) : (s.accept b).cur.result = s.cur.result := rfl
@[simp] theorem State.accept_cur_completed (b : Bundle) (s : State) : (s.accept b).cur.completed = s.cur.completed := rfl
@[simp] theorem State.accept_cur_cmd (b : Bundle) (s : State) : (s.accept b).cur.cmd = b.cmd := rfl
@[simp] theorem State.accept_cur_len (b : Bundle) (s : State) : (s.accept b).cur.len = b.len := rfl
@[simp] theorem State.accept_cur_txa (b : Bundle) (s : State) : (s.accept b).cur.txa = b.txa := rfl
@[simp] theorem State.accept_cur_rxa (b : Bundle) (s : State) : (s.accept b).cur.rxa = b.rxa := rfl
@[simp] theorem State.accept_cur_pos (b : Bundle) (s : State) : (s.accept b).cur.pos = .entry := rfl
@[simp] theorem State.accept_cur_work (b : Bundle) (s : State) : (s.accept b).cur.work = freeWork s.draws := rfl
@[simp] theorem State.accept_cur_history (b : Bundle) (s : State) : (s.accept b).cur.history = s.cur.history := rfl
@[simp] theorem State.accept_cur_disturbed (b : Bundle) (s : State) : (s.accept b).cur.disturbed = [] := rfl
@[simp] theorem State.accept_cur_env (b : Bundle) (s : State) : (s.accept b).cur.env = s.cur.env := rfl
@[simp] theorem State.accept_cur_presented (b : Bundle) (s : State) : (s.accept b).cur.presented = s.cur.presented := rfl

end Sys2Proof.Machine
end

