-- ==== Sys2Proof/Laws/Exec.lean ====
section
/-! SUPPORT. What one engine step can do, said once: whichever the command, it is one primitive of 00_scope R9 on the port in
focus, up to POS and the working registers, or finish. -/

namespace Sys2Proof.Machine

/-- t is u up to POS and the working registers of the port in focus. -/
def UpTo (t u : State) : Prop := t = { u with cur := { u.cur with pos := t.cur.pos, work := t.cur.work } }

theorem UpTo.refl (s : State) : UpTo s s := rfl

theorem UpTo.trans {a b c : State} (h : UpTo a b) (k : UpTo b c) : UpTo a c := by
  unfold UpTo at *
  rw [h, k]

theorem upTo_goto (s : State) (p : Pos) : UpTo (s.goto p) s := rfl

theorem upTo_setWork (s : State) (f : Work → Work) : UpTo (s.setWork f) s := rfl

/-- A move of the sequencer that performs no primitive: it changes POS and the working registers only. -/
def Silent (f : State → State) : Prop := ∀ s, UpTo (f s) s

theorem silent_goto (p : Pos) : Silent (State.goto p) := fun _ => upTo_goto _ p

theorem Silent.comp {f g : State → State} (hf : Silent f) (hg : Silent g) : Silent fun s => f (g s) :=
  fun s => (hf (g s)).trans (hg s)

theorem silent_work_goto (f : Work → Work) (p : Pos) : Silent fun s => (s.setWork f).goto p :=
  fun _ => (upTo_goto _ _).trans (upTo_setWork _ _)

theorem silent_callSendByte (site : SendSite) (d : Byte) : Silent (callSendByte site d) := fun s =>
  silent_work_goto _ _ s

theorem silent_callReceiveByte (site : RecvSite) : Silent (callReceiveByte site) := fun s => silent_work_goto _ _ s

theorem silent_beginPhase (p : BitVec 1) : Silent (beginPhase p) := fun s => silent_work_goto _ _ s

theorem silent_nextSendBit (site : SendSite) : Silent (nextSendBit site) := by
  intro s
  simp only [nextSendBit]
  split <;> exact (upTo_goto _ _).trans (upTo_setWork _ _)

theorem silent_nextReceiveBit (site : RecvSite) : Silent (nextReceiveBit site) := by
  intro s
  simp only [nextReceiveBit]
  split <;> exact (upTo_goto _ _).trans (upTo_setWork _ _)

theorem silent_nextPayload (n : Nat) (data : Nat → Payload) : Silent (nextPayload n data) := by
  intro s
  simp only [nextPayload]
  split
  · split
    · exact silent_callSendByte _ _ s
    · exact upTo_goto _ _
  · exact upTo_goto _ _

theorem silent_nextReceived (n : Nat) : Silent (nextReceived n) := by
  intro s
  simp only [nextReceived]
  split
  · exact silent_callReceiveByte _ s
  · exact upTo_goto _ _

theorem silent_afterAddress {go : State → State} (h : Silent go) : Silent (afterAddress go) := by
  intro s
  simp only [afterAddress]
  split
  · exact upTo_goto _ _
  · exact h s

theorem silent_afterPayload (n : Nat) (data : Nat → Payload) : Silent (afterPayload n data) := by
  intro s
  simp only [afterPayload]
  split
  · exact upTo_goto _ _
  · exact (silent_nextPayload n data _).trans (upTo_setWork _ _)

/-- The environment has presented one level: only its own part of the port changes. -/
theorem drawn_eq (s : State) :
    ∃ env presented, s.drawn = { s with cur := { s.cur with env := env, presented := presented } } := by
  unfold State.drawn
  split
  · exact ⟨s.cur.env, _, rfl⟩
  · exact ⟨_, s.cur.presented, rfl⟩

/-- GetLine: the environment presents one level, SAMPLE takes the level of the line, and the read is logged. -/
theorem getLine_eq (l : Line) (s : State) :
    ∃ env presented, s.getLine l = ({ s with cur := { s.cur with env := env, presented := presented } }.setWork
      fun w => { w with sample := s.level l }).log (.r l (s.level l)) := by
  obtain ⟨env, presented, h⟩ := drawn_eq s
  exact ⟨env, presented, by rw [State.getLine, lineByteR_lineByteW, h]⟩

/-- A read of caller memory changes the counter of free values only. -/
theorem looked_eq (a : Nat) (b : Bool) (s : State) : ∃ n, s.looked a b = { s with draws := n } := by
  unfold State.looked
  split
  · exact ⟨_, rfl⟩
  · exact ⟨s.draws, rfl⟩

/-- The positions at which a command finishes; a reserved word finishes at its entry. -/
def finishing (p : Pos) : Prop := p = .finish ∨ p = .finishFail ∨ p = .finishStall ∨ p = .entry

/-- What one engine step can do from s to t (00_scope R9). -/
inductive Primitive (s t : State) : Prop where
  | line (a : LineAct) (h : UpTo t (a.perform s))
  | read (l : Line) (h : UpTo t (s.getLine l))
  | memRead (a : Nat) (v : Byte) (n : Nat) (h : UpTo t (({ s with draws := n }).log (.mr a v)))
  | memWrite (hp : s.cur.pos = .memWrite)
      (h : UpTo t (({ s with mem := memPut (bufAddr s.cfg.addrW s.cur.rxa s.cur.work.idx.toNat) s.cur.work.shift s.mem }).log
        (.mw (bufAddr s.cfg.addrW s.cur.rxa s.cur.work.idx.toNat) s.cur.work.shift)))
  | diag (e : DiagEvent) (h : UpTo t (s.diag e))
  | finish (r : Word) (hp : finishing s.cur.pos) (h : t = s.finish r)

theorem upTo_perform {s u : State} (a : LineAct) (h : UpTo s u) : UpTo (a.perform s) (a.perform u) := by
  unfold UpTo at *
  rw [h]
  cases a with
  | set l v => cases l <;> rfl
  | wait => rfl

theorem upTo_log {s u : State} (e : Event) (h : UpTo s u) : UpTo (s.log e) (u.log e) := by
  unfold UpTo at *
  rw [h]
  rfl

theorem upTo_getLine {s u : State} (l : Line) (h : UpTo s u) : UpTo (s.getLine l) (u.getLine l) := by
  unfold UpTo at h
  rw [h]
  cases l <;> unfold UpTo State.getLine State.drawn State.level State.envLevel <;> cases u.cur.env <;> rfl

/-- Where the sequencer has only moved before a primitive, the primitive is the same. -/
theorem Primitive.of_upTo {s u t : State} (hu : UpTo s u) (hf : ¬ finishing s.cur.pos) (hm : s.cur.pos ≠ .memWrite)
    (h : Primitive s t) : Primitive u t := by
  cases h with
  | line a h => exact .line a (h.trans (upTo_perform a hu))
  | read l h => exact .read l (h.trans (upTo_getLine l hu))
  | memRead a v n h =>
    refine .memRead a v n (h.trans (upTo_log _ ?_))
    unfold UpTo at hu ⊢
    rw [hu]
  | memWrite hp h => exact absurd hp hm
  | diag e h => exact .diag e (h.trans (upTo_log _ hu))
  | finish r hp h => exact absurd hp hf

/-! One lemma per procedure. -/

theorem lineStep_next {code : List LineAct} {here : Nat → Pos} {ret : State → State} {k : Nat} {s t : State}
    (h : lineStep code here ret k s = .next t) :
    ∃ a, code[k]? = some a ∧ ((k + 1 < code.length ∧ t = (a.perform s).goto (here (k + 1))) ∨
      (¬ k + 1 < code.length ∧ t = ret (a.perform s))) := by
  unfold lineStep at h
  split at h
  · cases h
  · rename_i a ha
    refine ⟨a, ha, ?_⟩
    split at h <;> cases h
    · exact .inl ⟨‹_›, rfl⟩
    · exact .inr ⟨‹_›, rfl⟩

theorem lineStep_primitive {code : List LineAct} {here : Nat → Pos} {ret : State → State} {k : Nat} {s t : State}
    (hr : Silent ret) (h : lineStep code here ret k s = .next t) : Primitive s t := by
  obtain ⟨a, -, ⟨-, rfl⟩ | ⟨-, rfl⟩⟩ := lineStep_next h
  · exact .line a (upTo_goto _ _)
  · exact .line a (hr _)

theorem pollStep_upTo (site : RecvSite) (s : State) : UpTo (pollStep site s) (s.getLine .scl) := by
  simp only [pollStep]
  split
  · exact upTo_goto _ _
  · split
    · exact upTo_goto _ _
    · split <;> exact (upTo_goto _ _).trans (upTo_setWork _ _)

theorem receiveBitStep_primitive {site : RecvSite} {ret : State → State} {p : RecvPos} {s t : State} (hr : Silent ret)
    (h : receiveBitStep site ret p s = .next t) : Primitive s t := by
  cases p with
  | raise k => simp only [receiveBitStep] at h; exact lineStep_primitive (silent_work_goto _ _) h
  | poll => simp only [receiveBitStep] at h; cases h; exact .read .scl (pollStep_upTo site s)
  | sample => simp only [receiveBitStep] at h; cases h; exact .read .sda (upTo_goto _ _)
  | lower k => simp only [receiveBitStep] at h; exact lineStep_primitive hr h
  | ack k => cases h

theorem sendByteStep_primitive {site : SendSite} {ret : State → State} {p : SendPos} {s t : State} (hr : Silent ret)
    (h : sendByteStep site ret p s = .next t) : Primitive s t := by
  cases p with
  | bit k => simp only [sendByteStep] at h; exact lineStep_primitive (silent_nextSendBit site) h
  | release k => simp only [sendByteStep] at h; exact lineStep_primitive (silent_goto _) h
  | sample => simp only [sendByteStep] at h; cases h; exact .read .sda (upTo_goto _ _)
  | pulse k => simp only [sendByteStep] at h; exact lineStep_primitive (fun u => (hr _).trans (upTo_setWork _ _)) h

theorem receiveByteStep_primitive {site : RecvSite} {a : BitVec 1} {ret : State → State} {p : RecvPos} {s t : State}
    (hr : Silent ret) (h : receiveByteStep site a ret p s = .next t) : Primitive s t := by
  cases p with
  | ack k => simp only [receiveByteStep] at h; exact lineStep_primitive hr h
  | raise k => simp only [receiveByteStep] at h; exact receiveBitStep_primitive (silent_nextReceiveBit site) h
  | poll => simp only [receiveByteStep] at h; exact receiveBitStep_primitive (silent_nextReceiveBit site) h
  | sample => simp only [receiveByteStep] at h; exact receiveBitStep_primitive (silent_nextReceiveBit site) h
  | lower k => simp only [receiveByteStep] at h; exact receiveBitStep_primitive (silent_nextReceiveBit site) h

theorem memReadStep_primitive {src : Payload} {s t : State} (h : memReadStep src s = .next t) : Primitive s t := by
  cases src with
  | field v => cases h
  | buffer off =>
    simp only [memReadStep, State.memRead] at h
    split at h
    · obtain ⟨n, hn⟩ := looked_eq (bufAddr s.cfg.addrW s.cur.txa off) (s.disturbedAt (bufAddr s.cfg.addrW s.cur.txa off)) s
      rw [hn] at h
      cases h
      exact .memRead _ _ n (silent_callSendByte _ _ _)
    · cases h

theorem memWriteStep_primitive {n : Nat} {s t : State} (hp : s.cur.pos = .memWrite) (h : memWriteStep n s = .next t) :
    Primitive s t := by
  simp only [memWriteStep, State.memWrite] at h
  split at h
  · cases h
    exact .memWrite hp ((silent_nextReceived n _).trans (upTo_setWork _ _))
  · cases h

theorem raiseFailStep_primitive {e : DiagEvent} {s t : State} (h : raiseFailStep e s = .next t) : Primitive s t := by
  cases h
  exact .diag e (upTo_goto _ _)

theorem stallDiagStep_primitive {s t : State} (h : stallDiagStep s = .next t) : Primitive s t := by
  cases h
  exact .diag .stall (upTo_goto _ _)

theorem writeStep_primitive {addr : BitVec 7} {n : Nat} {data : Nat → Payload} {ret : State → State} {s t : State}
    (hr : Silent ret) (h : writeStep addr n data ret s = .next t) : Primitive s t := by
  unfold writeStep at h
  split at h
  · exact lineStep_primitive (silent_callSendByte _ _) h
  · exact sendByteStep_primitive
      (silent_afterAddress fun u => (silent_nextPayload n data _).trans (upTo_setWork _ _)) h
  · exact memReadStep_primitive h
  · exact sendByteStep_primitive (silent_afterPayload n data) h
  · exact lineStep_primitive hr h
  · exact lineStep_primitive (silent_goto _) h
  · exact lineStep_primitive (silent_goto _) h
  · exact raiseFailStep_primitive h
  · exact raiseFailStep_primitive h
  · rename_i hp
    cases h
    exact .finish _ (.inr (.inl hp)) rfl
  · cases h

theorem readStep_primitive {addr : BitVec 7} {n : Nat} {ret : State → State} {s t : State} (hr : Silent ret)
    (h : readStep addr n ret s = .next t) : Primitive s t := by
  unfold readStep at h
  split at h
  · exact lineStep_primitive (silent_callSendByte _ _) h
  · exact sendByteStep_primitive
      (silent_afterAddress fun u => (silent_nextReceived n _).trans (upTo_setWork _ _)) h
  · exact receiveByteStep_primitive (silent_goto _) h
  · exact memWriteStep_primitive ‹_› h
  · exact lineStep_primitive hr h
  · exact lineStep_primitive (silent_goto _) h
  · exact raiseFailStep_primitive h
  · rename_i hp
    cases h
    exact .finish _ (.inr (.inl hp)) rfl
  · exact stallDiagStep_primitive h
  · rename_i hp
    cases h
    exact .finish _ (.inr (.inr (.inl hp))) rfl
  · cases h

theorem registerReadStep_primitive {addr : BitVec 7} {index : Byte} {n : Nat} {s t : State}
    (h : registerReadStep addr index n s = .next t) : Primitive s t := by
  unfold registerReadStep at h
  split at h
  · exact writeStep_primitive (silent_beginPhase 1) h
  · exact readStep_primitive (silent_goto _) h

theorem illegalStep_primitive {s t : State} (h : illegalStep s = .next t) : Primitive s t := by
  unfold illegalStep at h
  split at h
  · rename_i hp
    cases h
    exact .finish _ (.inr (.inr (.inr hp))) rfl
  · cases h

theorem enter_of_ne {f : State → State} {s : State} (h : s.cur.pos ≠ .entry) : s.enter f = s := if_neg h

theorem enter_enter {f : State → State} (hf : ∀ u : State, (f u).cur.pos ≠ .entry) (s : State) :
    (s.enter f).enter f = s.enter f := by
  by_cases h : s.cur.pos = .entry
  · rw [State.enter.eq_1 f s, if_pos h, enter_of_ne (hf s)]
  · rw [enter_of_ne h, enter_of_ne h]

/-- From the entry a command first moves, silently, to its first position, which is neither a finish nor a memory write;
so what it does from there it does from the entry. -/
theorem enter_primitive {f : State → State} {g : State → Out} {s t : State} (hf : Silent f)
    (hp : ∀ u : State, ¬ finishing (f u).cur.pos ∧ (f u).cur.pos ≠ .memWrite) (hg : ∀ u, g (u.enter f) = g u)
    (hb : ∀ u : State, u.cur.pos ≠ .entry → g u = .next t → Primitive u t) (h : g s = .next t) : Primitive s t := by
  by_cases he : s.cur.pos = .entry
  · rw [← hg, State.enter, if_pos he] at h
    exact (hb _ (fun hn => (hp s).1 (.inr (.inr (.inr hn)))) h).of_upTo (hf s) (hp s).1 (hp s).2
  · exact hb _ he h

theorem finish_primitive {r : Word} {u t : State} (hp : u.cur.pos = .finish) (h : (.next (u.finish r) : Out) = .next t) :
    Primitive u t := by
  cases h
  exact .finish r (.inl hp) rfl

theorem stallFinish_primitive {u t : State} (hp : u.cur.pos = .finishStall) (h : stallFinishStep u = .next t) :
    Primitive u t := by
  cases h
  exact .finish _ (.inr (.inr (.inl hp))) rfl

theorem execInit_primitive {s t : State} (h : execInit s = .next t) : Primitive s t := by
  refine enter_primitive (f := State.goto (.init 0)) (g := execInit) (silent_goto _) (fun u => by simp [finishing])
    (fun u => by simp only [execInit]; rw [enter_enter fun u => by simp]) (fun u he hu => ?_) h
  simp only [execInit, enter_of_ne he] at hu
  split at hu
  · exact lineStep_primitive (silent_goto _) hu
  · exact finish_primitive ‹_› hu
  · cases hu

theorem execStart_primitive {s t : State} (h : execStart s = .next t) : Primitive s t := by
  refine enter_primitive (f := State.goto (.start 0)) (g := execStart) (silent_goto _) (fun u => by simp [finishing])
    (fun u => by simp only [execStart]; rw [enter_enter fun u => by simp]) (fun u he hu => ?_) h
  simp only [execStart, enter_of_ne he] at hu
  split at hu
  · exact lineStep_primitive (silent_goto _) hu
  · exact finish_primitive ‹_› hu
  · cases hu

theorem execStop_primitive {s t : State} (h : execStop s = .next t) : Primitive s t := by
  refine enter_primitive (f := State.goto (.stop .command 0)) (g := execStop) (silent_goto _) (fun u => by simp [finishing])
    (fun u => by simp only [execStop]; rw [enter_enter fun u => by simp]) (fun u he hu => ?_) h
  simp only [execStop, enter_of_ne he] at hu
  split at hu
  · exact lineStep_primitive (silent_goto _) hu
  · exact finish_primitive ‹_› hu
  · cases hu

theorem execSendBit_primitive {b : BitVec 1} {s t : State} (h : execSendBit b s = .next t) : Primitive s t := by
  refine enter_primitive (f := State.goto (.sendBit 0)) (g := (execSendBit b)) (silent_goto _) (fun u => by simp [finishing])
    (fun u => by simp only [execSendBit]; rw [enter_enter fun u => by simp]) (fun u he hu => ?_) h
  simp only [execSendBit, enter_of_ne he] at hu
  split at hu
  · exact lineStep_primitive (silent_goto _) hu
  · exact finish_primitive ‹_› hu
  · cases hu

theorem execRecvBit_primitive {s t : State} (h : execRecvBit s = .next t) : Primitive s t := by
  refine enter_primitive (f := State.goto (.recv .bitCommand (.raise 0))) (g := execRecvBit) (silent_goto _) (fun u => by simp [finishing])
    (fun u => by simp only [execRecvBit]; rw [enter_enter fun u => by simp]) (fun u he hu => ?_) h
  simp only [execRecvBit, enter_of_ne he] at hu
  split at hu
  · exact receiveBitStep_primitive (silent_goto _) hu
  · exact stallDiagStep_primitive hu
  · exact stallFinish_primitive ‹_› hu
  · exact finish_primitive ‹_› hu
  · cases hu

theorem execSendByte_primitive {d : Byte} {s t : State} (h : execSendByte d s = .next t) : Primitive s t := by
  refine enter_primitive (f := callSendByte .command d) (g := (execSendByte d)) (silent_callSendByte _ _) (fun u => by simp [finishing, callSendByte])
    (fun u => by simp only [execSendByte]; rw [enter_enter fun u => by simp [callSendByte]]) (fun u he hu => ?_) h
  simp only [execSendByte, enter_of_ne he] at hu
  split at hu
  · exact sendByteStep_primitive (silent_goto _) hu
  · exact finish_primitive ‹_› hu
  · cases hu

theorem execRecvByte_primitive {a : BitVec 1} {s t : State} (h : execRecvByte a s = .next t) : Primitive s t := by
  refine enter_primitive (f := callReceiveByte .byteCommand) (g := (execRecvByte a)) (silent_callReceiveByte _) (fun u => by simp [finishing, callReceiveByte])
    (fun u => by simp only [execRecvByte]; rw [enter_enter fun u => by simp [callReceiveByte]]) (fun u he hu => ?_) h
  simp only [execRecvByte, enter_of_ne he] at hu
  split at hu
  · exact receiveByteStep_primitive (silent_goto _) hu
  · exact stallDiagStep_primitive hu
  · exact stallFinish_primitive ‹_› hu
  · exact finish_primitive ‹_› hu
  · cases hu

theorem execWrite_primitive {addr : BitVec 7} {s t : State} (h : execWrite addr s = .next t) : Primitive s t := by
  refine enter_primitive (f := State.goto (.start 0)) (g := (execWrite addr)) (silent_goto _) (fun u => by simp [finishing])
    (fun u => by simp only [execWrite]; rw [enter_enter fun u => by simp]) (fun u he hu => ?_) h
  simp only [execWrite, enter_of_ne he] at hu
  split at hu
  · exact finish_primitive ‹_› hu
  · exact writeStep_primitive (silent_goto _) hu

theorem execRead_primitive {addr : BitVec 7} {s t : State} (h : execRead addr s = .next t) : Primitive s t := by
  refine enter_primitive (f := State.goto (.start 0)) (g := (execRead addr)) (silent_goto _) (fun u => by simp [finishing])
    (fun u => by simp only [execRead]; rw [enter_enter fun u => by simp]) (fun u he hu => ?_) h
  simp only [execRead, enter_of_ne he] at hu
  split at hu
  · exact finish_primitive ‹_› hu
  · exact readStep_primitive (silent_goto _) hu

theorem execWrRegIdx_primitive {addr : BitVec 7} {index : Byte} {s t : State} (h : execWrRegIdx addr index s = .next t) : Primitive s t := by
  refine enter_primitive (f := State.goto (.start 0)) (g := (execWrRegIdx addr index)) (silent_goto _) (fun u => by simp [finishing])
    (fun u => by simp only [execWrRegIdx]; rw [enter_enter fun u => by simp]) (fun u he hu => ?_) h
  simp only [execWrRegIdx, enter_of_ne he] at hu
  split at hu
  · exact finish_primitive ‹_› hu
  · exact writeStep_primitive (silent_goto _) hu

theorem execWrReg_primitive {addr : BitVec 7} {index : Byte} {value : Byte} {s t : State} (h : execWrReg addr index value s = .next t) : Primitive s t := by
  refine enter_primitive (f := State.goto (.start 0)) (g := (execWrReg addr index value)) (silent_goto _) (fun u => by simp [finishing])
    (fun u => by simp only [execWrReg]; rw [enter_enter fun u => by simp]) (fun u he hu => ?_) h
  simp only [execWrReg, enter_of_ne he] at hu
  split at hu
  · exact finish_primitive ‹_› hu
  · exact writeStep_primitive (silent_goto _) hu

theorem execWrRegs_primitive {addr : BitVec 7} {index : Byte} {s t : State} (h : execWrRegs addr index s = .next t) : Primitive s t := by
  refine enter_primitive (f := State.goto (.start 0)) (g := (execWrRegs addr index)) (silent_goto _) (fun u => by simp [finishing])
    (fun u => by simp only [execWrRegs]; rw [enter_enter fun u => by simp]) (fun u he hu => ?_) h
  simp only [execWrRegs, enter_of_ne he] at hu
  split at hu
  · exact finish_primitive ‹_› hu
  · exact writeStep_primitive (silent_goto _) hu

theorem execRdReg_primitive {addr : BitVec 7} {index : Byte} {s t : State} (h : execRdReg addr index s = .next t) : Primitive s t := by
  refine enter_primitive (f := beginPhase 0) (g := (execRdReg addr index)) (silent_beginPhase 0) (fun u => by simp [finishing, beginPhase])
    (fun u => by simp only [execRdReg]; rw [enter_enter fun u => by simp [beginPhase]]) (fun u he hu => ?_) h
  simp only [execRdReg, enter_of_ne he] at hu
  split at hu
  · exact finish_primitive ‹_› hu
  · exact registerReadStep_primitive hu

theorem execRdRegs_primitive {addr : BitVec 7} {index : Byte} {s t : State} (h : execRdRegs addr index s = .next t) : Primitive s t := by
  refine enter_primitive (f := beginPhase 0) (g := (execRdRegs addr index)) (silent_beginPhase 0) (fun u => by simp [finishing, beginPhase])
    (fun u => by simp only [execRdRegs]; rw [enter_enter fun u => by simp [beginPhase]]) (fun u he hu => ?_) h
  simp only [execRdRegs, enter_of_ne he] at hu
  split at hu
  · exact finish_primitive ‹_› hu
  · exact registerReadStep_primitive hu

/-- One engine step of any command is one primitive, or finish. -/
theorem exec_primitive {i : Instr} {s t : State} (h : exec i s = .next t) : Primitive s t := by
  cases i with
  | init => exact execInit_primitive h
  | start => exact execStart_primitive h
  | stop => exact execStop_primitive h
  | sendBit _ => exact execSendBit_primitive h
  | recvBit => exact execRecvBit_primitive h
  | sendByte _ => exact execSendByte_primitive h
  | recvByte _ => exact execRecvByte_primitive h
  | write _ => exact execWrite_primitive h
  | read _ => exact execRead_primitive h
  | wrRegIdx _ _ => exact execWrRegIdx_primitive h
  | wrReg _ _ _ => exact execWrReg_primitive h
  | wrRegs _ _ => exact execWrRegs_primitive h
  | rdReg _ _ => exact execRdReg_primitive h
  | rdRegs _ _ => exact execRdRegs_primitive h
  | _ => exact illegalStep_primitive h

end Sys2Proof.Machine
end

