-- ==== Sys2Proof/Laws/Lists.lean ====
section
/-! SUPPORT. Lists of key and value by strictly rising key: what a find gives after a put or an erase, and that both keep the
order; with them, that every operation on caller memory keeps its canonical form. -/

namespace Sys2Proof.Machine

variable {α : Type}

@[simp] theorem kvFind_kvPut_same (k : Nat) (v : α) (l : List (Nat × α)) : kvFind k (kvPut k v l) = some v := by
  induction l with
  | nil => simp [kvPut, kvFind]
  | cons e t ih =>
    simp only [kvPut]
    split
    · simp [kvFind]
    · split
      · simp [kvFind]
      · rename_i h1 h2
        simp [kvFind, Ne.symm h2, ih]

theorem kvFind_kvPut_other {k j : Nat} (h : j ≠ k) (v : α) (l : List (Nat × α)) :
    kvFind j (kvPut k v l) = kvFind j l := by
  induction l with
  | nil => simp [kvPut, kvFind, Ne.symm h]
  | cons e t ih =>
    simp only [kvPut]
    split
    · simp [kvFind, Ne.symm h]
    · split
      · rename_i h1 h2
        subst h2
        simp [kvFind, Ne.symm h]
      · simp [kvFind, ih]

theorem kvFind_kvErase_other {k j : Nat} (h : j ≠ k) (l : List (Nat × α)) : kvFind j (kvErase k l) = kvFind j l := by
  induction l with
  | nil => rfl
  | cons e t ih =>
    simp only [kvErase]
    split
    · rename_i h2
      simp [kvFind, h2, Ne.symm h]
    · simp [kvFind, ih]

theorem mem_kvPut {k : Nat} {v : α} {l : List (Nat × α)} {e : Nat × α} (h : e ∈ kvPut k v l) : e = (k, v) ∨ e ∈ l := by
  induction l with
  | nil => simpa [kvPut] using h
  | cons c t ih =>
    simp only [kvPut] at h
    split at h
    · simpa using h
    · split at h
      · rcases List.mem_cons.1 h with h | h
        · exact .inl h
        · exact .inr (List.mem_cons_of_mem _ h)
      · rcases List.mem_cons.1 h with h | h
        · exact .inr (h ▸ List.mem_cons_self)
        · exact (ih h).imp id (List.mem_cons_of_mem _)

theorem mem_kvErase {k : Nat} {l : List (Nat × α)} {e : Nat × α} (h : e ∈ kvErase k l) : e ∈ l := by
  induction l with
  | nil => exact h
  | cons c t ih =>
    simp only [kvErase] at h
    split at h
    · exact List.mem_cons_of_mem _ h
    · rcases List.mem_cons.1 h with h | h
      · exact h ▸ List.mem_cons_self
      · exact List.mem_cons_of_mem _ (ih h)

theorem kvFind_mem {k : Nat} {v : α} {l : List (Nat × α)} (h : kvFind k l = some v) : (k, v) ∈ l := by
  induction l with
  | nil => simp [kvFind] at h
  | cons e t ih =>
    simp only [kvFind] at h
    split at h
    · rename_i hk
      cases h
      exact hk ▸ List.mem_cons_self
    · exact List.mem_cons_of_mem _ (ih h)

/-- Keys rising above a bound rise above a lower one. -/
theorem kvRising_mono {l : List (Nat × α)} {m n : Nat} (hmn : m ≤ n) (h : kvRising (some n) l = true) :
    kvRising (some m) l = true := by
  cases l with
  | nil => rfl
  | cons e t =>
    simp only [kvRising, Bool.and_eq_true, decide_eq_true_eq] at h ⊢
    exact ⟨by omega, h.2⟩

theorem kvRising_none {l : List (Nat × α)} {n : Nat} (h : kvRising (some n) l = true) : kvRising none l = true := by
  cases l with
  | nil => rfl
  | cons e t =>
    simp only [kvRising, Bool.and_eq_true] at h ⊢
    exact ⟨trivial, h.2⟩

theorem kvRising_kvPut_some {k : Nat} (v : α) {n : Nat} (hn : n < k) {l : List (Nat × α)}
    (h : kvRising (some n) l = true) : kvRising (some n) (kvPut k v l) = true := by
  induction l generalizing n with
  | nil => simp [kvPut, kvRising, hn]
  | cons e t ih =>
    simp only [kvRising, Bool.and_eq_true, decide_eq_true_eq] at h
    simp only [kvPut]
    split
    · rename_i h1
      simp [kvRising, hn, h1, h.2]
    · split
      · rename_i h1 h2
        simp [kvRising, h2, h.1, h.2]
      · rename_i h1 h2
        simp only [kvRising, h.1, decide_true, Bool.true_and]
        exact ih (by omega) h.2

theorem kvRising_kvPut (k : Nat) (v : α) {l : List (Nat × α)} (h : kvRising none l = true) :
    kvRising none (kvPut k v l) = true := by
  cases l with
  | nil => rfl
  | cons e t =>
    simp only [kvRising, Bool.true_and] at h
    simp only [kvPut]
    split
    · rename_i h1
      simp [kvRising, h1, h]
    · split
      · rename_i h1 h2
        simp [kvRising, h2, h]
      · rename_i h1 h2
        simp only [kvRising, Bool.true_and]
        exact kvRising_kvPut_some v (by omega) h

theorem kvRising_kvErase {k : Nat} {lo : Option Nat} {l : List (Nat × α)} (h : kvRising lo l = true) :
    kvRising lo (kvErase k l) = true := by
  induction l generalizing lo with
  | nil => cases lo <;> rfl
  | cons e t ih =>
    simp only [kvErase]
    split
    · cases lo with
      | none =>
        simp only [kvRising, Bool.true_and] at h
        exact kvRising_none h
      | some n =>
        simp only [kvRising, Bool.and_eq_true, decide_eq_true_eq] at h
        exact kvRising_mono (by omega) h.2
    · simp only [kvRising, Bool.and_eq_true] at h ⊢
      exact ⟨h.1, ih h.2⟩

/-- A key at or below the bound is not in a list whose keys rise above it. -/
theorem kvFind_of_rising {k n : Nat} (hk : k ≤ n) {l : List (Nat × α)} (h : kvRising (some n) l = true) :
    kvFind k l = none := by
  induction l generalizing n with
  | nil => rfl
  | cons e t ih =>
    simp only [kvRising, Bool.and_eq_true, decide_eq_true_eq] at h
    have hne : e.1 ≠ k := by omega
    simp only [kvFind, hne, if_false]
    exact ih (by omega) h.2

theorem kvFind_kvErase_same {k : Nat} {lo : Option Nat} {l : List (Nat × α)} (h : kvRising lo l = true) :
    kvFind k (kvErase k l) = none := by
  induction l generalizing lo with
  | nil => rfl
  | cons e t ih =>
    simp only [kvRising, Bool.and_eq_true] at h
    simp only [kvErase]
    split
    · rename_i hk
      exact kvFind_of_rising (by omega) h.2
    · rename_i hk
      simp only [kvFind, hk, if_false]
      exact ih h.2

/-- Changing each value, its key kept: what a find gives. -/
theorem kvFind_map (f : Nat → α → α) (k : Nat) (l : List (Nat × α)) :
    kvFind k (l.map fun e => (e.1, f e.1 e.2)) = (kvFind k l).map (f k) := by
  induction l with
  | nil => rfl
  | cons e t ih =>
    simp only [List.map_cons, kvFind, ih]
    split
    · rename_i h
      simp [h]
    · rfl

/-- Changing each value, its key kept, keeps the order. -/
theorem kvRising_map (f : Nat → α → α) (lo : Option Nat) (l : List (Nat × α)) :
    kvRising lo (l.map fun e => (e.1, f e.1 e.2)) = kvRising lo l := by
  induction l generalizing lo with
  | nil => rfl
  | cons e t ih => simp only [List.map_cons, kvRising, ih]

/-- Caller memory stays in canonical form under a write, the only operation that changes it (20_memory R52). -/
theorem memory_wf_memPut (a : Nat) (v : Byte) {m : List Host.Cell} (h : Memory.wf m = true) :
    Memory.wf (memPut a v m) = true := kvRising_kvPut a v h

theorem memory_wf_reset : Memory.wf State.reset.mem = true := rfl

@[simp] theorem memFind_memPut_same (a : Nat) (v : Byte) (m : List Host.Cell) : memFind a (memPut a v m) = some v :=
  kvFind_kvPut_same a v m

theorem memFind_memPut_other {a b : Nat} (h : b ≠ a) (v : Byte) (m : List Host.Cell) :
    memFind b (memPut a v m) = memFind b m := kvFind_kvPut_other h v m

end Sys2Proof.Machine
end

