-- ==== Sys2Proof/Laws/PerInstr.lean ====
section
/-! SUPPORT. For every command: RSV and OP of its encoded word are those of its row of spec/opcode_table.json. -/

namespace Sys2Proof

theorem fieldRsv_cmdWord (rsv : BitVec 4) (b1 b0 : BitVec 8) (addr : BitVec 7) (f : BitVec 1) (op : BitVec 4) :
    fieldRsv (cmdWord rsv b1 b0 addr f op) = rsv := by
  ext k hk
  interval_cases k <;> simp [fieldRsv, cmdWord]

theorem fieldOp_cmdWord (rsv : BitVec 4) (b1 b0 : BitVec 8) (addr : BitVec 7) (f : BitVec 1) (op : BitVec 4) :
    fieldOp (cmdWord rsv b1 b0 addr f op) = op := by
  ext k hk
  interval_cases k <;> simp [fieldOp, cmdWord]

/-- RSV and OP of a command's row in spec/opcode_table.json. -/
def Laws.RowWord.row : Instr → BitVec 4 × BitVec 4
  | .init => (0x0, 0x0)
  | .start => (0x0, 0x1)
  | .stop => (0x0, 0x2)
  | .sendBit _ => (0x0, 0x3)
  | .recvBit => (0x0, 0x4)
  | .sendByte _ => (0x0, 0x5)
  | .recvByte _ => (0x0, 0x6)
  | .write _ => (0x0, 0x7)
  | .read _ => (0x0, 0x8)
  | .wrRegIdx _ _ => (0x0, 0x9)
  | .wrReg _ _ _ => (0x0, 0xA)
  | .wrRegs _ _ => (0x0, 0xB)
  | .rdReg _ _ => (0x0, 0xC)
  | .rdRegs _ _ => (0x0, 0xD)
  | .illegalOpE => (0x0, 0xE)
  | .illegalOpF => (0x0, 0xF)
  | .illegalRsv1 => (0x1, 0x0)
  | .illegalRsv2 => (0x2, 0x0)
  | .illegalRsv3 => (0x3, 0x0)
  | .illegalRsv4 => (0x4, 0x0)
  | .illegalRsv5 => (0x5, 0x0)
  | .illegalRsv6 => (0x6, 0x0)
  | .illegalRsv7 => (0x7, 0x0)
  | .illegalRsv8 => (0x8, 0x0)
  | .illegalRsv9 => (0x9, 0x0)
  | .illegalRsv10 => (0xA, 0x0)
  | .illegalRsv11 => (0xB, 0x0)
  | .illegalRsv12 => (0xC, 0x0)
  | .illegalRsv13 => (0xD, 0x0)
  | .illegalRsv14 => (0xE, 0x0)
  | .illegalRsv15 => (0xF, 0x0)

/-- The encoded word is of the command's row. -/
def Laws.RowWord.Statement (i : Instr) : Prop := (fieldRsv (encode i), fieldOp (encode i)) = Laws.RowWord.row i

theorem Laws.RowWord.of_cmdWord (rsv : BitVec 4) (b1 b0 : BitVec 8) (addr : BitVec 7) (f : BitVec 1) (op : BitVec 4) :
    (fieldRsv (cmdWord rsv b1 b0 addr f op), fieldOp (cmdWord rsv b1 b0 addr f op)) = (rsv, op) := by
  rw [fieldRsv_cmdWord, fieldOp_cmdWord]

theorem Laws.RowWord.init : Laws.RowWord.Statement .init :=
  Laws.RowWord.of_cmdWord _ _ _ _ _ _

theorem Laws.RowWord.start : Laws.RowWord.Statement .start :=
  Laws.RowWord.of_cmdWord _ _ _ _ _ _

theorem Laws.RowWord.stop : Laws.RowWord.Statement .stop :=
  Laws.RowWord.of_cmdWord _ _ _ _ _ _

theorem Laws.RowWord.sendBit (b : BitVec 1) : Laws.RowWord.Statement (.sendBit b) :=
  Laws.RowWord.of_cmdWord _ _ _ _ _ _

theorem Laws.RowWord.recvBit : Laws.RowWord.Statement .recvBit :=
  Laws.RowWord.of_cmdWord _ _ _ _ _ _

theorem Laws.RowWord.sendByte (d : BitVec 8) : Laws.RowWord.Statement (.sendByte d) :=
  Laws.RowWord.of_cmdWord _ _ _ _ _ _

theorem Laws.RowWord.recvByte (a : BitVec 1) : Laws.RowWord.Statement (.recvByte a) :=
  Laws.RowWord.of_cmdWord _ _ _ _ _ _

theorem Laws.RowWord.write (addr : BitVec 7) : Laws.RowWord.Statement (.write addr) :=
  Laws.RowWord.of_cmdWord _ _ _ _ _ _

theorem Laws.RowWord.read (addr : BitVec 7) : Laws.RowWord.Statement (.read addr) :=
  Laws.RowWord.of_cmdWord _ _ _ _ _ _

theorem Laws.RowWord.wrRegIdx (addr : BitVec 7) (index : BitVec 8) : Laws.RowWord.Statement (.wrRegIdx addr index) :=
  Laws.RowWord.of_cmdWord _ _ _ _ _ _

theorem Laws.RowWord.wrReg (addr : BitVec 7) (index : BitVec 8) (value : BitVec 8) : Laws.RowWord.Statement (.wrReg addr index value) :=
  Laws.RowWord.of_cmdWord _ _ _ _ _ _

theorem Laws.RowWord.wrRegs (addr : BitVec 7) (index : BitVec 8) : Laws.RowWord.Statement (.wrRegs addr index) :=
  Laws.RowWord.of_cmdWord _ _ _ _ _ _

theorem Laws.RowWord.rdReg (addr : BitVec 7) (index : BitVec 8) : Laws.RowWord.Statement (.rdReg addr index) :=
  Laws.RowWord.of_cmdWord _ _ _ _ _ _

theorem Laws.RowWord.rdRegs (addr : BitVec 7) (index : BitVec 8) : Laws.RowWord.Statement (.rdRegs addr index) :=
  Laws.RowWord.of_cmdWord _ _ _ _ _ _

theorem Laws.RowWord.illegalOpE : Laws.RowWord.Statement .illegalOpE :=
  Laws.RowWord.of_cmdWord _ _ _ _ _ _

theorem Laws.RowWord.illegalOpF : Laws.RowWord.Statement .illegalOpF :=
  Laws.RowWord.of_cmdWord _ _ _ _ _ _

theorem Laws.RowWord.illegalRsv1 : Laws.RowWord.Statement .illegalRsv1 :=
  Laws.RowWord.of_cmdWord _ _ _ _ _ _

theorem Laws.RowWord.illegalRsv2 : Laws.RowWord.Statement .illegalRsv2 :=
  Laws.RowWord.of_cmdWord _ _ _ _ _ _

theorem Laws.RowWord.illegalRsv3 : Laws.RowWord.Statement .illegalRsv3 :=
  Laws.RowWord.of_cmdWord _ _ _ _ _ _

theorem Laws.RowWord.illegalRsv4 : Laws.RowWord.Statement .illegalRsv4 :=
  Laws.RowWord.of_cmdWord _ _ _ _ _ _

theorem Laws.RowWord.illegalRsv5 : Laws.RowWord.Statement .illegalRsv5 :=
  Laws.RowWord.of_cmdWord _ _ _ _ _ _

theorem Laws.RowWord.illegalRsv6 : Laws.RowWord.Statement .illegalRsv6 :=
  Laws.RowWord.of_cmdWord _ _ _ _ _ _

theorem Laws.RowWord.illegalRsv7 : Laws.RowWord.Statement .illegalRsv7 :=
  Laws.RowWord.of_cmdWord _ _ _ _ _ _

theorem Laws.RowWord.illegalRsv8 : Laws.RowWord.Statement .illegalRsv8 :=
  Laws.RowWord.of_cmdWord _ _ _ _ _ _

theorem Laws.RowWord.illegalRsv9 : Laws.RowWord.Statement .illegalRsv9 :=
  Laws.RowWord.of_cmdWord _ _ _ _ _ _

theorem Laws.RowWord.illegalRsv10 : Laws.RowWord.Statement .illegalRsv10 :=
  Laws.RowWord.of_cmdWord _ _ _ _ _ _

theorem Laws.RowWord.illegalRsv11 : Laws.RowWord.Statement .illegalRsv11 :=
  Laws.RowWord.of_cmdWord _ _ _ _ _ _

theorem Laws.RowWord.illegalRsv12 : Laws.RowWord.Statement .illegalRsv12 :=
  Laws.RowWord.of_cmdWord _ _ _ _ _ _

theorem Laws.RowWord.illegalRsv13 : Laws.RowWord.Statement .illegalRsv13 :=
  Laws.RowWord.of_cmdWord _ _ _ _ _ _

theorem Laws.RowWord.illegalRsv14 : Laws.RowWord.Statement .illegalRsv14 :=
  Laws.RowWord.of_cmdWord _ _ _ _ _ _

theorem Laws.RowWord.illegalRsv15 : Laws.RowWord.Statement .illegalRsv15 :=
  Laws.RowWord.of_cmdWord _ _ _ _ _ _

end Sys2Proof
end

