-- ==== Sys2Proof/Laws/Ports.lean ====
section
/-! SUPPORT. What bringing a port into focus, and taking a turn, leave unchanged. -/

namespace Sys2Proof.Machine

theorem focus_sel (p : Nat) (s : State) : (s.focus p).sel = p := by
  unfold State.focus
  split <;> simp_all

theorem focus_cur (p : Nat) (s : State) : (s.focus p).cur = s.port p := by
  unfold State.focus State.port
  split <;> simp_all

/-- Bringing a port into focus changes the state of no port. -/
theorem focus_port (p q : Nat) (s : State) : (s.focus p).port q = s.port q := by
  by_cases hp : p = s.sel
  · simp [State.focus, hp]
  · by_cases hq : q = p
    · subst hq
      simp [State.focus, hp, State.port]
    · simp only [State.focus, hp, if_false, State.port, hq]
      rw [kvFind_kvErase_other hq]
      by_cases hs : q = s.sel
      · subst hs
        simp
      · rw [kvFind_kvPut_other hs]
        simp [hs]

/-- Nothing but the focus and where the ports stand. -/
theorem focus_rest (p : Nat) (s : State) :
    (s.focus p).cfg = s.cfg ∧ (s.focus p).mem = s.mem ∧ (s.focus p).writable = s.writable ∧ (s.focus p).inbox = s.inbox
      ∧ (s.focus p).replies = s.replies ∧ (s.focus p).turn = s.turn ∧ (s.focus p).draws = s.draws := by
  unfold State.focus
  split <;> exact ⟨rfl, rfl, rfl, rfl, rfl, rfl, rfl⟩

/-- Changing the state of every port that is kept, by what leaves a port at its reset state there, changes every port so. -/
theorem port_map {f : Nat → PortState → PortState} {p : Nat} (hf : f p (PortState.reset p) = PortState.reset p)
    {s t : State} (hsel : t.sel = s.sel) (hcur : t.cur = f s.sel s.cur)
    (hothers : t.others = s.others.map fun e => (e.1, f e.1 e.2)) : t.port p = f p (s.port p) := by
  unfold State.port
  rw [hsel, hcur, hothers, kvFind_map]
  split
  · simp_all
  · cases kvFind p s.others <;> simp [hf]

/-- Taking a turn changes `turn` and the counter of free values only. -/
theorem picked_eq (s : State) : s.picked = { s with turn := s.picked.turn, draws := s.picked.draws } := by
  unfold State.picked
  split
  · rfl
  · split <;> rfl

theorem picked_port (p : Nat) (s : State) : s.picked.port p = s.port p := by
  rw [picked_eq]
  rfl

end Sys2Proof.Machine
end

