-- ==== Sys2Proof/Laws/Run.lean ====
section
/-! SUPPORT. Runs of one command: runs one after another, a straight line of pseudocode run to its end, the levels the
environment presents, and what the accesses to caller memory answer. -/

namespace Sys2Proof.Machine

/-! Runs one after another. -/

theorem execN_add {i : Instr} {m n : Nat} {s t : State} (h : execN i m s = .next t) :
    execN i (m + n) s = execN i n t := by
  induction m generalizing s with
  | zero => cases h; rw [Nat.zero_add]
  | succ m ih =>
    rw [Nat.add_right_comm]
    simp only [execN] at h ⊢
    split at h
    · exact ih h
    · cases h
    · cases h

theorem execN_one (i : Instr) (s : State) : execN i 1 s = exec i s := by
  simp only [execN]
  split <;> simp_all

/-! A straight line of pseudocode. -/

theorem lineStep_eq {code : List LineAct} {here : Nat → Pos} {ret : State → State} {k : Nat} {s : State}
    (hk : k < code.length) :
    lineStep code here ret k s
      = .next (if k + 1 < code.length then (code[k].perform s).goto (here (k + 1)) else ret (code[k].perform s)) := by
  simp [lineStep, hk]

/-- The primitives of a straight line, all performed. -/
def performAll (code : List LineAct) (s : State) : State := code.foldl (fun s a => a.perform s) s

/-- The level of a line after a straight line of pseudocode, its level before given. -/
def lineLevel (l : Line) (code : List LineAct) (v : Level) : Level :=
  code.foldl (fun v a => match a with | .set m x => if m = l then x else v | .wait => v) v

theorem perform_goto (a : LineAct) (p : Pos) (s : State) : a.perform (s.goto p) = (a.perform s).goto p := by
  cases a with
  | set l v => cases l <;> rfl
  | wait => rfl

theorem performAll_eq (code : List LineAct) (s : State) :
    performAll code s = { s with cur := { s.cur with
      scl := lineLevel .scl code s.cur.scl, sda := lineLevel .sda code s.cur.sda
      history := s.cur.history ++ lineEvents s.cfg.tUs code } } := by
  induction code generalizing s with
  | nil => simp [performAll, lineLevel, lineEvents]
  | cons a t ih =>
    have := ih (a.perform s)
    simp only [performAll, List.foldl_cons, lineLevel, lineEvents, List.map_cons] at this ⊢
    rw [this]
    cases a with
    | set l v =>
      cases l <;> simp [LineAct.perform, LineAct.event, State.setLine, PortState.setDrive, lineByteR_lineByteW]
    | wait => simp [LineAct.perform, LineAct.event, State.wait, State.delay, State.log]

theorem performAll_take_succ {code : List LineAct} {k : Nat} (hk : k < code.length) (s : State) :
    performAll (code.take (k + 1)) s = code[k].perform (performAll (code.take k) s) := by
  rw [List.take_succ_eq_append_getElem hk, performAll, List.foldl_append]
  rfl

/-- A procedure that is a straight line runs to its end: all its primitives are performed, then `ret`. -/
theorem run_line {i : Instr} {code : List LineAct} {here : Nat → Pos} {ret : State → State} {s : State}
    (hpos : s.cur.pos = here 0) (hc : code ≠ [])
    (hx : ∀ k u, k < code.length → u = (performAll (code.take k) s).goto (here k) →
      exec i u = lineStep code here ret k u) :
    execN i code.length s = .next (ret ((performAll code s).goto (here (code.length - 1)))) := by
  have main : ∀ m k, k + m + 1 = code.length →
      execN i (m + 1) ((performAll (code.take k) s).goto (here k))
        = .next (ret ((performAll code s).goto (here (code.length - 1)))) := by
    intro m
    induction m with
    | zero =>
      intro k hk
      have hlt : k < code.length := by omega
      rw [execN_one, hx k _ hlt rfl, lineStep_eq hlt, if_neg (by omega), perform_goto]
      have h1 : code.length - 1 = k := by omega
      have this := performAll_take_succ hlt s
      rw [List.take_of_length_le (by omega)] at this
      rw [h1, this]
    | succ m ih =>
      intro k hk
      have hlt : k < code.length := by omega
      have step : exec i ((performAll (code.take k) s).goto (here k))
          = .next ((performAll (code.take (k + 1)) s).goto (here (k + 1))) := by
        rw [hx k _ hlt rfl, lineStep_eq hlt, if_pos (by omega), perform_goto, performAll_take_succ hlt]
        rfl
      rw [execN.eq_2, step]
      exact ih (k + 1) (by omega)
  have hs : (performAll (code.take 0) s).goto (here 0) = s := by rw [← hpos]; rfl
  have hlen : code.length - 1 + 1 = code.length :=
    Nat.sub_add_cancel (Nat.one_le_iff_ne_zero.mpr (mt List.length_eq_zero_iff.mp hc))
  rw [← hlen]
  conv_lhs => rw [← hs]
  exact main _ 0 (by omega)

/-! The levels the environment presents. -/

/-- The environment after n levels have been presented. -/
def drawnN : Nat → State → State
  | 0, s => s
  | n + 1, s => drawnN n s.drawn

theorem nextLevels_add (m n : Nat) (s : State) : nextLevels (m + n) s = nextLevels m s ++ nextLevels n (drawnN m s) := by
  induction m generalizing s with
  | zero => simp [nextLevels, drawnN]
  | succ m ih => rw [Nat.add_right_comm]; simp [nextLevels, drawnN, ih]

/-- The levels presented depend on the parameters, the port and its environment only. -/
theorem nextLevels_congr {s t : State} (hc : s.cfg = t.cfg) (hp : s.sel = t.sel) (he : s.cur.env = t.cur.env)
    (hd : s.cur.presented = t.cur.presented) (n : Nat) : nextLevels n s = nextLevels n t := by
  induction n generalizing s t with
  | zero => rfl
  | succ n ih =>
    have h : s.drawn.cfg = t.drawn.cfg ∧ s.drawn.sel = t.drawn.sel ∧ s.drawn.cur.env = t.drawn.cur.env
        ∧ s.drawn.cur.presented = t.drawn.cur.presented := by
      simp only [State.drawn, he]
      cases t.cur.env <;> simp [hc, hp, hd]
    simp only [nextLevels, ih h.1 h.2.1 h.2.2.1 h.2.2.2]
    simp only [State.envLevel, hc, he, hd, hp]

/-- Without pull-ups the environment presents 0 only. -/
theorem nextLevels_noPullUps {s : State} (h : s.cfg.pulledUp s.sel = false) (n : Nat) :
    nextLevels n s = List.replicate n 0 := by
  induction n generalizing s with
  | zero => rfl
  | succ n ih =>
    have h' : s.drawn.cfg.pulledUp s.drawn.sel = false := by
      unfold State.drawn
      split <;> exact h
    simp [nextLevels, ih h', State.envLevel, h, List.replicate_succ]

/-! Caller memory. -/

/-- MemRead of a byte that holds a value and is not disturbed. -/
theorem memRead_held {a : Nat} {v : Byte} {use : Byte → State → State} {s : State} (h : memFind a s.mem = some v)
    (hd : a ∉ s.cur.disturbed) : s.memRead a use = .next (use v (s.log (.mr a v))) := by
  simp [State.memRead, State.mayRead, State.byteAt, State.looked, State.fixedByte, State.disturbedAt, h, hd]

/-- MemRead of a byte the caller provides that is disturbed or holds no value. -/
theorem memRead_open {a : Nat} {use : Byte → State → State} {s : State} (hp : s.mayRead a = true)
    (h : a ∈ s.cur.disturbed ∨ memFind a s.mem = none) : s.memRead a use =
      .next (use (Config.freeByte s.draws) (({ s with draws := s.draws + 1 }).log (.mr a (Config.freeByte s.draws)))) := by
  have hf : s.fixedByte a (s.disturbedAt a) = none := by
    rcases h with h | h <;> simp [State.fixedByte, State.disturbedAt, h]
  simp [State.memRead, State.byteAt, State.looked, hp, hf]

/-- MemRead of a byte the caller has not provided. -/
theorem memRead_stuck {a : Nat} {use : Byte → State → State} {s : State} (h : s.mayRead a = false) :
    s.memRead a use = .fault (.bufferNotProvided a) := by
  simp [State.memRead, h]

/-- MemWrite of a byte the caller provides for receiving. -/
theorem memWrite_provided {a : Nat} {v : Byte} {ret : State → State} {s : State} (h : s.mayWrite a = true) :
    s.memWrite a v ret = .next (ret (({ s with mem := memPut a v s.mem }).log (.mw a v))) := by
  simp [State.memWrite, h]

/-- MemWrite of a byte the caller does not provide for receiving. -/
theorem memWrite_stuck {a : Nat} {v : Byte} {ret : State → State} {s : State} (h : s.mayWrite a = false) :
    s.memWrite a v ret = .fault (.bufferNotProvided a) := by
  simp [State.memWrite, h]

end Sys2Proof.Machine
end

