-- ==== Sys2Proof/Tests/Slice0.lean ====
section
/-! SUPPORT. Tests: the assembler's checks with an ill-formed line for each, decoding of words written out from the spec, one
step of each command on a small state, and a witness for the hypotheses of every statement that has some. Expected results
are those of the spec's rules and of 95_test_vectors. -/

namespace Sys2Proof.Machine.Tests

open Sys2Proof Sys2Proof.Machine

/-! Well-formedness (30_encoding R98): each check has an ill-formed line that it refuses. -/

theorem test_asm_addr_refused : (AsmCmd.write 0x80 1 0x100).wellFormed = false := by decide
theorem test_asm_byte_refused : (AsmCmd.sendByte 0x100).wellFormed = false := by decide
theorem test_asm_index_refused : (AsmCmd.rdReg 0x50 0x100 0x200).wellFormed = false := by decide
theorem test_asm_value_refused : (AsmCmd.wrReg 0x50 0x10 0x100).wellFormed = false := by decide
theorem test_asm_len_refused : (AsmCmd.read 0x50 0x10000 0x200).wellFormed = false := by decide
theorem test_asm_count_refused : (AsmCmd.wrRegs 0x50 0x10 0x10000 0x100).wellFormed = false := by decide
theorem test_asm_bit_refused : (AsmCmd.sendBit 2).wellFormed = false := by decide
theorem test_asm_bounds_accepted :
    (AsmCmd.wrRegs 0x7F 0xFF 0xFFFF 0x100).wellFormed = true ∧ (AsmCmd.sendBit 1).wellFormed = true := by decide

/-- X16 and X19 of 95_test_vectors, from their text. -/
theorem test_asm_text :
    asmProgram ".port 1\nWR_REG 0x50, 0x10, 0xAB ; set\n.mem 0x100: 1, 0x20\nrd_regs 0x68, 0x3B, 2, 512".toList
      = some [.port 1, .command (.wrReg 0x50 0x10 0xAB), .mem 0x100 [1, 0x20],
          .command (.rdRegs 0x68 0x3B 2 0x200)] := by decide

theorem test_asm_word :
    assemble (.rdRegs 0x68 0x3B 2 0x200) = some { cmd := 0x0003BD0D, len := 2, txa := 0, rxa := 0x200 } := by decide

/-! Decoding: words written out as {RSV, B1, B0, ADDR, F, OP} from 30_encoding R87 and R88, and those of 95_test_vectors. -/

theorem test_decode_init : decode 0b0000_00000000_00000000_0000000_0_0000 = .init := by decide
theorem test_decode_start : decode 0b0000_00000000_00000000_0000000_0_0001 = .start := by decide
theorem test_decode_stop : decode 0b0000_00000000_00000000_0000000_0_0010 = .stop := by decide
theorem test_decode_sendBit : decode 0b0000_00000000_00000000_0000000_1_0011 = .sendBit 1 := by decide
theorem test_decode_recvBit : decode 0b0000_00000000_00000000_0000000_0_0100 = .recvBit := by decide
theorem test_decode_sendByte : decode 0b0000_00000000_10100101_0000000_0_0101 = .sendByte 0xA5 := by decide
theorem test_decode_recvByte : decode 0b0000_00000000_00000000_0000000_1_0110 = .recvByte 1 := by decide
theorem test_decode_write : decode 0b0000_00000000_00000000_1010000_0_0111 = .write 0x50 := by decide
theorem test_decode_read : decode 0b0000_00000000_00000000_0111100_0_1000 = .read 0x3C := by decide
theorem test_decode_wrRegIdx : decode 0b0000_00000000_00010000_1010000_0_1001 = .wrRegIdx 0x50 0x10 := by decide
theorem test_decode_wrReg : decode 0b0000_10101011_00010000_1010000_0_1010 = .wrReg 0x50 0x10 0xAB := by decide
theorem test_decode_wrRegs : decode 0b0000_00000000_00010000_1010000_0_1011 = .wrRegs 0x50 0x10 := by decide
theorem test_decode_rdReg : decode 0b0000_00000000_01110101_1101000_0_1100 = .rdReg 0x68 0x75 := by decide
theorem test_decode_rdRegs : decode 0b0000_00000000_00111011_1101000_0_1101 = .rdRegs 0x68 0x3B := by decide
theorem test_decode_reserved_op :
    decode 0b0000_00000000_00000000_0000000_0_1110 = .illegalOpE
      ∧ decode 0b0000_11111111_11111111_1111111_1_1111 = .illegalOpF := by decide
theorem test_decode_reserved_rsv_low :
    decode 0x10000001 = .illegalRsv1 ∧ decode 0x2000000E = .illegalRsv2 ∧ decode 0x30000000 = .illegalRsv3
      ∧ decode 0x40000000 = .illegalRsv4 ∧ decode 0x50000000 = .illegalRsv5 ∧ decode 0x60000000 = .illegalRsv6
      ∧ decode 0x70000000 = .illegalRsv7 := by decide
theorem test_decode_reserved_rsv_high :
    decode 0x8000000A = .illegalRsv8 ∧ decode 0x90000000 = .illegalRsv9 ∧ decode 0xA0000000 = .illegalRsv10
      ∧ decode 0xB0000000 = .illegalRsv11 ∧ decode 0xC0000000 = .illegalRsv12 ∧ decode 0xD0000000 = .illegalRsv13
      ∧ decode 0xE0000000 = .illegalRsv14 ∧ decode 0xF0000000 = .illegalRsv15 := by decide

/-- X27, X28: every ignored field set. -/
theorem test_decode_ignores : decode 0x0FFFFFF1 = .start ∧ decode 0x0FFFFFF4 = .recvBit := by decide

/-- X1, X7, X16, X19. -/
theorem test_encode :
    encode .init = 0x00000000 ∧ encode (.sendByte 0xA5) = 0x000A5005 ∧ encode (.wrReg 0x50 0x10 0xAB) = 0x0AB10A0A
      ∧ encode (.rdRegs 0x68 0x3B) = 0x0003BD0D := by decide

/-- The address bytes of 95_test_vectors. -/
theorem test_addrByte :
    addrByte 0x50 0 = 0xA0 ∧ addrByte 0x68 1 = 0xD1 ∧ addrByte 0x7F 1 = 0xFF ∧ addrByte 0x00 0 = 0x00 := by decide

/-- The RESULT words of 95_test_vectors. -/
theorem test_resultWord :
    resultFail = 1 ∧ resultStall = 2 ∧ resultIllegal = 3 ∧ resultAck 1 = 4 ∧ resultValue 0xA5 = 0x528
      ∧ resultValue 0x42 = 0x210 := by decide

/-! One step of each command. -/

/-- Two ports with pull-ups, SCL and SDA at locations 0x10 and 0x11, 0x20 and 0x21; T_US 5, 16 address bits. -/
def params (limit : Option Nat) : Params :=
  { tUs := 5, stretchLimit := limit, addrW := 16
    ports := [{ scl := 0x10, sda := 0x11, pulledUp := true }, { scl := 0x20, sda := 0x21, pulledUp := true }] }

/-- Port 0 without pull-ups. -/
def bare : Params := { params none with ports := [{ scl := 0x10, sda := 0x11, pulledUp := false }] }

/-- A command in flight at a position: LEN 2, TXA 0x100, RXA 0x200, the lines inside a transaction (SCL 0, SDA 1), the levels
the environment presents, and two bytes provided for sending and for receiving. -/
def running (pos : Pos) (env : List Level) : State :=
  { State.reset with
    cfg := params none
    cur := { PortState.reset 0 with
      scl := 0, sda := 1, busy := true, len := 2, txa := 0x100, rxa := 0x200, pos := pos, env := env }
    mem := [(0x100, 0x10), (0x101, 0x20)]
    writable := [{ base := 0x200, size := 2 }] }

/-- The same with its working registers. -/
def runningWith (pos : Pos) (f : Work → Work) (env : List Level) : State := (running pos env).setWork f

/-- The same with a finite STRETCH_LIMIT. -/
def limited (n : Nat) (pos : Pos) (env : List Level) : State :=
  { running pos env with cfg := params (some n) }

/-- What a step shows: its events, the lines, BUSY, and POS. -/
def shown (o : Out) : Option (List Event × Level × Level × Bool × Pos) :=
  match o with
  | .next t => some (t.cur.history, t.cur.scl, t.cur.sda, t.cur.busy, t.cur.pos)
  | .fault _ | .refused _ => none

/-- RESULT and BUSY after a step. -/
def ended (o : Out) : Option (Word × Bool) :=
  match o with
  | .next t => some (t.cur.result, t.cur.busy)
  | .fault _ | .refused _ => none

/-- The fault, or the refusal, that a step ends in. -/
def stopped (o : Out) : Option Fault × Option Refusal :=
  match o with
  | .next _ => (none, none)
  | .fault f => (some f, none)
  | .refused r => (none, some r)

/-- The working registers SHIFT and IDX after a step. -/
def worked (o : Out) : Option (Byte × Nat) :=
  match o with
  | .next t => some (t.cur.work.shift, t.cur.work.idx.toNat)
  | .fault _ | .refused _ => none

theorem test_init_first : shown (exec .init (running .entry [])) = some ([.w .scl 1], 1, 1, true, .init 1) := by decide
theorem test_init_ends : ended (exec .init (running .finish [])) = some (0, false) := by decide
theorem test_start_condition :
    shown (exec .start (running (.start 4) [])) = some ([.w .sda 0], 0, 0, true, .start 5) := by decide
theorem test_start_last :
    shown (exec .start (running (.start 7) [])) = some ([.d 5], 0, 1, true, .finish) := by decide
theorem test_stop_first :
    shown (exec .stop (running .entry [])) = some ([.w .sda 0], 0, 0, true, .stop .command 1) := by decide
theorem test_stop_ends : ended (exec .stop (running .finish [])) = some (0, false) := by decide
theorem test_sendBit_first :
    shown (exec (.sendBit 0) (running .entry [])) = some ([.w .sda 0], 0, 0, true, .sendBit 1) := by decide
theorem test_sendBit_last :
    shown (exec (.sendBit 1) (running (.sendBit 4) [])) = some ([.w .scl 0], 0, 1, true, .finish) := by decide
/-- V1.13: without a limit a poll reading 0 is repeated; with limit 3 the third stalls. -/
theorem test_recvBit_polls :
    shown (exec .recvBit (running (.recv .bitCommand .poll) [0]))
        = some ([.r .scl 0], 0, 1, true, .recv .bitCommand .poll)
      ∧ shown (exec .recvBit ((limited 3 (.recv .bitCommand .poll) [0]).setWork fun w => { w with polls := 2 }))
        = some ([.r .scl 0], 0, 1, true, .diagStall) := by decide
theorem test_recvBit_ends :
    ended (exec .recvBit (runningWith .finish (fun w => { w with sample := 1 }) [])) = some (8, false)
      ∧ ended (exec .recvBit (running .finishStall [])) = some (2, false) := by decide
theorem test_sendByte_first_bit :
    shown (exec (.sendByte 0x25) (running .entry [])) = some ([.w .sda 0], 0, 0, true, .send .command (.bit 1)) := by decide
theorem test_sendByte_ack :
    ended (exec (.sendByte 0xA5) (runningWith .finish (fun w => { w with acked := 1 }) [])) = some (4, false) := by decide
theorem test_recvByte_ack_level :
    shown (exec (.recvByte 1) (running (.recv .byteCommand (.ack 0)) []))
      = some ([.w .sda 0], 0, 0, true, .recv .byteCommand (.ack 1)) := by decide
theorem test_recvByte_ends :
    ended (exec (.recvByte 1) (runningWith .finish (fun w => { w with shift := 0xA5 }) [])) = some (0x528, false) := by
  decide
theorem test_write_reads_payload :
    shown (exec (.write 0x50) (runningWith .memRead (fun w => { w with idx := 1 }) []))
      = some ([.mr 0x101 0x20], 0, 1, true, .send .payload (.bit 0)) := by decide
theorem test_write_data_nack :
    shown (exec (.write 0x50) (runningWith (.send .payload (.pulse 3)) (fun w => { w with sample := 1 }) []))
      = some ([.w .scl 0], 0, 1, true, .stop .dataNack 0) := by decide
theorem test_read_stores :
    shown (exec (.read 0x50) (runningWith .memWrite (fun w => { w with idx := 1, shift := 0x22 }) []))
      = some ([.mw 0x201 0x22], 0, 1, true, .stop .success 0) := by decide
theorem test_read_acks_first_not_last :
    shown (exec (.read 0x50) (runningWith (.recv .payload (.ack 0)) (fun w => { w with idx := 0 }) []))
        = some ([.w .sda 0], 0, 0, true, .recv .payload (.ack 1))
      ∧ shown (exec (.read 0x50) (runningWith (.recv .payload (.ack 0)) (fun w => { w with idx := 1 }) []))
        = some ([.w .sda 1], 0, 1, true, .recv .payload (.ack 1)) := by decide
theorem test_wrRegIdx_sends_index :
    worked (exec (.wrRegIdx 0x50 0x33) (runningWith (.send .address (.pulse 3)) (fun w => { w with idx := 9 }) []))
      = some (0x33, 0) := by decide
theorem test_wrRegIdx_addr_nack :
    shown (exec (.wrRegIdx 0x50 0x33) (running .diagAddr []))
      = some ([.g (.addrNack 0x50 0)], 0, 1, true, .finishFail) := by decide
theorem test_wrReg_sends_value_second :
    worked (exec (.wrReg 0x50 0x10 0xAB) (running (.send .payload (.pulse 3)) [])) = some (0xAB, 1) := by decide
theorem test_wrReg_fails : ended (exec (.wrReg 0x50 0x10 0xAB) (running .finishFail [])) = some (1, false) := by decide
theorem test_wrRegs_value_0_is_payload_1 :
    shown (exec (.wrRegs 0x50 0x10) (runningWith .memRead (fun w => { w with idx := 1 }) []))
      = some ([.mr 0x100 0x10], 0, 1, true, .send .payload (.bit 0)) := by decide
theorem test_wrRegs_data_nack :
    shown (exec (.wrRegs 0x50 0x10) (runningWith .diagData (fun w => { w with idx := 2 }) []))
      = some ([.g (.dataNack 2)], 0, 1, true, .finishFail) := by decide
theorem test_rdReg_second_transaction :
    shown (exec (.rdReg 0x50 0x10) (running (.stop .success 5) [])) = some ([.d 5], 0, 1, true, .start 0) := by decide
theorem test_rdReg_ends :
    ended (exec (.rdReg 0x50 0x10) (runningWith .finish (fun w => { w with shift := 0x42 }) [])) = some (0x210, false) := by
  decide
theorem test_rdRegs_read_nack_says_direction :
    shown (exec (.rdRegs 0x50 0x10) (runningWith .diagAddr (fun w => { w with phase := 1 }) []))
      = some ([.g (.addrNack 0x50 1)], 0, 1, true, .finishFail) := by decide
theorem test_rdRegs_ends_without_value :
    ended (exec (.rdRegs 0x68 0x3B) (runningWith .finish (fun w => { w with shift := 0x34 }) [])) = some (0, false) := by
  decide

/-- Every reserved command: RESULT 3, no event, the lines as they were (60_exceptions R215). -/
theorem test_reserved :
    ∀ i ∈ [Instr.illegalOpE, .illegalOpF, .illegalRsv1, .illegalRsv2, .illegalRsv3, .illegalRsv4, .illegalRsv5, .illegalRsv6,
        .illegalRsv7, .illegalRsv8, .illegalRsv9, .illegalRsv10, .illegalRsv11, .illegalRsv12, .illegalRsv13, .illegalRsv14,
        .illegalRsv15],
      ended (exec i (running .entry [])) = some (3, false)
        ∧ shown (exec i (running .entry [])) = some ([], 0, 1, false, .entry) := by decide

/-- A placed word is the first command to run after reset. -/
theorem test_placed_word_runs :
    (match step (State.reset.withFetchWord 32 0x10A0C) with
      | .next t => some (t.cur.history, t.cur.busy, t.cur.pos)
      | .fault _ | .refused _ => none) = some ([.w .sda 1], true, .start 1) := by decide

/-! Witnesses: the hypotheses of each statement, met together. -/

theorem witness_DecodeOfEncode : (Instr.wrReg 0x7F 0xFF 0xFF).wellFormed = true := by decide

theorem witness_DecodeFollowsThePseudocode :
    (0x0AB10A0A#32).extractLsb' 28 4 = 0 ∧ (0x0AB10A0A#32).extractLsb' 0 4 = 0xA ∧ (0x0000000F#32).extractLsb' 0 4 = 0xF := by
  decide

/-- Two different words for each row of 30_encoding R89 that agree on the fields it lists. -/
theorem witness_DecodeReadsOnlyListedFields :
    fieldRsv 0x00000013 = 0 ∧ fieldRsv 0x0FFFFFF3 = 0 ∧ fieldOp 0x00000013 = fieldOp 0x0FFFFFF3
      ∧ fieldF 0x00000013 = fieldF 0x0FFFFFF3
      ∧ fieldOp 0x00000A07 = fieldOp 0x0FFFFA17 ∧ fieldAddr 0x00000A07 = fieldAddr 0x0FFFFA17
      ∧ fieldOp 0x00010A09 = fieldOp 0x0FF10A19 ∧ fieldAddr 0x00010A09 = fieldAddr 0x0FF10A19
      ∧ fieldB0 0x00010A09 = fieldB0 0x0FF10A19
      ∧ fieldOp 0x0AB10A0A = fieldOp 0x0AB10A1A ∧ fieldAddr 0x0AB10A0A = fieldAddr 0x0AB10A1A
      ∧ fieldB0 0x0AB10A0A = fieldB0 0x0AB10A1A ∧ fieldB1 0x0AB10A0A = fieldB1 0x0AB10A1A := by decide

theorem witness_SentBitsAssembleToTheByte :
    ((List.range 8).map fun j => (j, (1 : Level))).length = 8
      ∧ ((List.range 8).map fun j => (j, (1 : Level)))[0]? = some (0, 1)
      ∧ ((List.range 8).map fun j => (j, (1 : Level)))[7]? = some (7, 1) := by decide

/-- Of each bound of R98: the last value within it and the first beyond. -/
theorem witness_AssembledLineDecodes :
    (assemble (.wrReg 0x7F 0xFF 0xFF)).isSome = true ∧ assemble (.wrReg 0x80 0xFF 0xFF) = none
      ∧ assemble (.wrReg 0x7F 0x100 0xFF) = none ∧ assemble (.wrReg 0x7F 0xFF 0x100) = none
      ∧ (assemble (.rdRegs 0x7F 0xFF 0xFFFF 0x200)).isSome = true ∧ assemble (.rdRegs 0x7F 0xFF 0x10000 0x200) = none
      ∧ (assemble (.sendBit 1)).isSome = true ∧ assemble (.sendBit 2) = none := by decide

/-- Two ports with a command in flight, START on the one in focus and STOP on the other. -/
def twoPorts : State :=
  { running .entry [] with
    cur := { (running .entry []).cur with cmd := 0x00000001 }
    others := [(1, { (running .entry []).cur with cmd := 0x00000002 })]
    turn := [.engine 1] }

theorem witness_StepRunsTheDecodedCommandOrTheHostsAct :
    twoPorts.mover = some (.engine 1) ∧ (twoPorts.picked.focus 1).cur.busy = true
      ∧ decode (twoPorts.picked.focus 1).cur.cmd = .stop ∧ Instr.stop.wellFormed = true := by decide

/-- The host's turn: laid down while two sequencers could move too, and because nothing else can move. -/
theorem witness_StepRunsTheDecodedCommandOrTheHostsAct_host :
    State.mover { twoPorts with turn := [.host], inbox := [.readBusy 1, .reset] } = some .host
      ∧ State.mover { running .entry [] with cur := PortState.reset 0, inbox := [.provide 3 7] } = some .host := by decide

/-- The host's step does its oldest act and keeps the rest: BUSY of port 1 is read, the reset is still to come (R64). -/
theorem test_host_step :
    (match step { twoPorts with turn := [.host], inbox := [.readBusy 1, .reset] } with
      | .next t => some (t.replies, t.inbox)
      | .fault _ | .refused _ => none) = some ([.busy 1 true], [.reset]) := by decide

theorem witness_PlacedWordRunsNext : (0 : Nat) < 2 ^ 32 ∧ 2 ^ 32 - 1 < 2 ^ 32 := by decide

/-- An idle machine: no command in flight, one completed. -/
def idle : State := { running .entry [] with cur := { (running .entry []).cur with busy := false, completed := true } }

theorem witness_IdleEngineWaits :
    idle.turn = [] ∧ idle.inbox = [] ∧ idle.cur.busy = false ∧ ∀ e ∈ idle.others, e.2.busy = false := by decide

theorem witness_IssueIsAcceptedWhileNotBusy : 0 < idle.cfg.nPorts ∧ (idle.port 0).busy = false := by decide

/-- The same on a port that is not in focus. -/
theorem witness_IssueIsAcceptedOnAnotherPort : 1 < idle.cfg.nPorts ∧ (idle.port 1).busy = false := by decide

theorem witness_BreakingThePortContractFaults :
    1 < twoPorts.cfg.nPorts ∧ (twoPorts.port 1).busy = true ∧ twoPorts.cfg.lineLoc .scl 1 = some 0x20
      ∧ twoPorts.cfg.lineLoc .sda 1 = some 0x21 := by decide

/-- A line location of a busy port, of an idle one, and an address that is none (60_exceptions R225, 20_memory R57). -/
theorem test_foreign_line_write :
    stopped (hostAct (.lineWrite 0x21 0) twoPorts) = (some (.lineWriteDuringCommand 0x21), none)
      ∧ stopped (hostAct (.lineWrite 0x20 0) (running .entry [])) = (none, some (.lineWriteWhileIdle 0x20))
      ∧ stopped (hostAct (.lineWrite 0x12 0) twoPorts) = (some (.noSuchLocation 0x12), none) := by decide

/-- SetLine(SDA, 1) on port 1 writes 0x01 to SDA_LOC(1), GetLine(SCL) reads SCL_LOC(1), a Delay accesses nothing (R51). -/
theorem test_line_accesses :
    Event.lineAccess (params none) 1 (.w .sda 1) = some (.write 0x21 0x01)
      ∧ Event.lineAccess (params none) 1 (.r .scl 0) = some (.read 0x20 0)
      ∧ Event.lineAccess (params none) 1 (.d 5) = none := by decide

theorem witness_CallerReadsResultBusyAndBuffers :
    1 < idle.cfg.nPorts ∧ (idle.port 0).completed = true ∧ (idle.port 1).completed = false := by decide

/-- A byte that holds a value; the first of a receive buffer nothing has stored into, after the command and during it; the byte
after the buffer; the first address that does not exist. -/
theorem witness_CallerReadsResultBusyAndBuffers_bytes :
    idle.receiving 0x101 = false ∧ memFind 0x101 idle.mem = some 0x20
      ∧ idle.receiving 0x200 = false ∧ memFind 0x200 idle.mem = none ∧ idle.mayWrite 0x200 = true
      ∧ State.receiving 0x200 { twoPorts with cur := { twoPorts.cur with cmd := 0x00000788 } } = true
      ∧ idle.receiving 0x202 = false ∧ memFind 0x202 idle.mem = none ∧ idle.mayWrite 0x202 = false
      ∧ 0x202 < 2 ^ idle.cfg.addrW ∧ ¬ 0x10000 < 2 ^ idle.cfg.addrW := by decide

/-- After a READ that failed on its address, the caller reads the buffer it provided (20_memory R64). -/
theorem test_readByte_after_fail :
    (match exec (.read 0x50) (running .finishFail []) with
      | .next t => stopped (hostAct (.readByte 0x200) t)
      | .fault f => (some f, none)
      | .refused r => (none, some r)) = (none, none) := by decide

theorem witness_PlacedBytesAreHeld : 0xFFFF < 2 ^ idle.cfg.addrW ∧ ¬ 0x10000 < 2 ^ idle.cfg.addrW := by decide

/-- A WRITE about to read a byte the caller has disturbed. -/
def disturbedWrite : State :=
  { running .memRead [] with cur := { (running .memRead []).cur with disturbed := [0x100] } }

theorem witness_DisturbedOrUnwrittenByteIsFree :
    disturbedWrite.cur.pos = .memRead ∧ disturbedWrite.mayRead 0x100 = true
      ∧ 0x100 = bufAddr disturbedWrite.cfg.addrW disturbedWrite.cur.txa disturbedWrite.cur.work.idx.toNat
      ∧ 0x100 ∈ disturbedWrite.cur.disturbed := by decide

/-- WR_REGS about to read the same byte, its payload byte 1. -/
theorem witness_DisturbedOrUnwrittenByteIsFree_wrRegs :
    (disturbedWrite.setWork fun w => { w with idx := 1 }).cur.work.idx.toNat ≠ 0
      ∧ 0x100 = bufAddr disturbedWrite.cfg.addrW disturbedWrite.cur.txa
          ((disturbedWrite.setWork fun w => { w with idx := 1 }).cur.work.idx.toNat - 1)
      ∧ 0x100 ∈ (disturbedWrite.setWork fun w => { w with idx := 1 }).cur.disturbed := by decide

/-- A WRITE from a buffer the caller provides and nothing has written. -/
theorem witness_DisturbedOrUnwrittenByteIsFree_unwritten :
    (running .memRead []).mayRead 0x200 = true ∧ memFind 0x200 (running .memRead []).mem = none
      ∧ 0x200 = bufAddr 16 0x200 (running .memRead []).cur.work.idx.toNat
      ∧ stopped (exec (.write 0x50) { running .memRead [] with cur := { (running .memRead []).cur with txa := 0x200 } })
        = (none, none) := by decide

/-- A READ in flight into 0x200, of which nothing is stored yet: the caller's read of it answers, with a free value (R62); of
the byte after its buffer it does not (70 R246). -/
theorem test_readByte_of_receiving_byte :
    (match hostAct (.readByte 0x201) { twoPorts with cur := { twoPorts.cur with cmd := 0x00000788 } } with
      | .next t => t.replies.length
      | .fault _ | .refused _ => 0) = 1
      ∧ stopped (hostAct (.readByte 0x202) { twoPorts with cur := { twoPorts.cur with cmd := 0x00000788 } })
        = (some (.bufferNotProvided 0x202), none) := by decide

/-- At reset no byte is provided for receiving: a store is stuck until the caller provides one (70 R246). -/
theorem test_store_into_nothing_provided :
    stopped (exec (.read 0x50) { running .memWrite [] with writable := State.reset.writable })
      = (some (.bufferNotProvided 0x200), none) := by decide

/-- For BitCommandsFirstPrimitive, ByteCommandsFirstPrimitive, TransactionCommandsFirstPrimitive, InitReleasesBothLines,
StartFormsStart, StopFormsStop, SendBitClocksTheBit and SendByteReportsTheAcknowledge. -/
theorem witness_entry : (running .entry []).cur.pos = .entry := by decide

/-- WRITE, READ, and RD_REG in each of its transactions, at the last primitive of start(). -/
theorem witness_TheFirstByteIsTheAddressByte :
    (running (.start 7) []).cur.pos = .start 7
      ∧ isTransaction (.write 0x7F) = true ∧ owns (.write 0x7F) (running (.start 7) []).cur = true
      ∧ isTransaction (.read 0x7F) = true ∧ owns (.read 0x7F) (running (.start 7) []).cur = true
      ∧ isTransaction (.rdReg 0x7F 1) = true ∧ owns (.rdReg 0x7F 1) (running (.start 7) []).cur = true
      ∧ owns (.rdReg 0x7F 1) (runningWith (.start 7) (fun w => { w with phase := 1 }) []).cur = true := by decide

theorem witness_FinishWritesTheCommandsResult : (running .finish []).cur.pos = .finish := by decide

theorem witness_ReservedWordsFinishIllegal :
    Instr.illegalRsv15.reserved = true ∧ (running .entry []).cur.pos = .entry ∧ fieldRsv 0x10000001 ≠ 0
      ∧ fieldOp 0x0000000E = 0xE ∧ fieldOp 0x0FFFFFFF = 0xF := by decide

/-- Does this command, at this position, finish in this step, from a state that owns the position? -/
def finishes (i : Instr) (s : State) : Bool :=
  owns i s.cur && s.cur.busy && (match exec i s with | .next t => !t.cur.busy | .fault _ | .refused _ => false)

theorem witness_EachCommandEndsInItsResults :
    (∀ i ∈ [Instr.init, .start, .stop, .sendBit 1, .recvBit, .sendByte 0xA5, .recvByte 1, .write 0x50, .read 0x50,
        .wrRegIdx 0x50 1, .wrReg 0x50 1 2, .wrRegs 0x50 1], finishes i (running .finish []) = true)
      ∧ (∀ i ∈ [Instr.rdReg 0x50 1, .rdRegs 0x50 1],
          finishes i (runningWith .finish (fun w => { w with phase := 1 }) []) = true)
      ∧ (∀ i ∈ [Instr.write 0x50, .read 0x50, .rdReg 0x50 1, .rdRegs 0x50 1], finishes i (running .finishFail []) = true)
      ∧ (∀ i ∈ [Instr.recvBit, .recvByte 0, .read 0x50], finishes i (running .finishStall []) = true)
      ∧ finishes .illegalOpE (running .entry []) = true := by decide

/-- Of every command: its entry. -/
theorem witness_EveryPositionAnswersNext :
    ∀ i ∈ [Instr.init, .start, .stop, .sendBit 1, .recvBit, .sendByte 0xA5, .recvByte 1, .write 0x50, .read 0x50,
        .wrRegIdx 0x50 1, .wrReg 0x50 1 2, .wrRegs 0x50 1, .rdReg 0x50 1, .rdRegs 0x50 1, .illegalOpE, .illegalRsv15],
      owns i (running .entry []).cur = true ∧ accessProvided i (running .entry []) = true := by decide

/-- The accesses to caller memory: provided. -/
theorem witness_EveryPositionAnswersNext_access :
    owns (.write 0x50) (running .memRead []).cur = true ∧ accessProvided (.write 0x50) (running .memRead []) = true
      ∧ accessAddr (.write 0x50) (running .memRead []) = some 0x100
      ∧ owns (.read 0x50) (running .memWrite []).cur = true ∧ accessProvided (.read 0x50) (running .memWrite []) = true
      ∧ accessAddr (.read 0x50) (running .memWrite []) = some 0x200 := by decide

/-- And not provided: a send buffer never written, a receive buffer of no bytes. -/
theorem witness_UnprovidedAccessIsStuck :
    owns (.write 0x50) (running .memRead []).cur = true
      ∧ accessAddr (.write 0x50) { running .memRead [] with mem := [] } = some 0x100
      ∧ accessProvided (.write 0x50) { running .memRead [] with mem := [] } = false
      ∧ owns (.read 0x50) (running .memWrite []).cur = true
      ∧ accessAddr (.read 0x50) { running .memWrite [] with writable := [] } = some 0x200
      ∧ accessProvided (.read 0x50) { running .memWrite [] with writable := [] } = false := by decide

/-- No poll at 0, and two, within a limit of three. -/
theorem witness_RecvBitReturnsTheSampledBit :
    nextLevels 2 (limited 3 .entry [1, 0]) = List.replicate 0 0 ++ [1, 0]
      ∧ nextLevels 4 (limited 3 .entry [0, 0, 1, 1]) = List.replicate 2 0 ++ [1, 1]
      ∧ (limited 3 .entry [0, 0, 1, 1]).cfg.stretchLimit = some 3 ∧ 2 < 3
      ∧ (limited 3 .entry [0, 0, 1, 1]).cur.pos = .entry := by decide

theorem witness_withinLimit : withinLimit (limited 3 .entry []) [(0, 1), (2, 0)] := by
  intro m hm b hb
  cases hm
  revert b
  decide

theorem witness_withinLimit_unbounded : withinLimit (running .entry []) [(1000, 1)] := by
  intro m hm
  cases hm

/-- A limit of one, and of two. -/
theorem witness_RecvBitStallsAtTheLimit :
    (limited 1 .entry [0]).cur.pos = .entry ∧ (limited 1 .entry [0]).cfg.stretchLimit = some (0 + 1)
      ∧ nextLevels (0 + 1) (limited 1 .entry [0]) = List.replicate (0 + 1) 0
      ∧ nextLevels (1 + 1) (limited 2 .entry [0, 0]) = List.replicate (1 + 1) 0 := by decide

theorem witness_StallEndsEveryReceivingCommand :
    owns (.read 0x50) (limited 1 (.recv .payload (.raise 0)) [0]).cur = true
      ∧ owns .recvBit (limited 1 (.recv .bitCommand (.raise 0)) [0]).cur = true
      ∧ owns (.recvByte 0) (limited 1 (.recv .byteCommand (.raise 0)) [0]).cur = true
      ∧ owns (.rdReg 0x50 1) ((limited 1 (.recv .payload (.raise 0)) [0]).setWork fun w => { w with phase := 1 }).cur = true
      ∧ owns (.rdRegs 0x50 1) ((limited 1 (.recv .payload (.raise 0)) [0]).setWork fun w => { w with phase := 1 }).cur = true
      ∧ (limited 1 (.recv .payload (.raise 0)) [0]).cur.pos = .recv .payload (.raise 0)
      ∧ (limited 1 (.recv .payload (.raise 0)) [0]).cfg.stretchLimit = some (0 + 1)
      ∧ nextLevels (0 + 1) (limited 1 (.recv .payload (.raise 0)) [0]) = List.replicate (0 + 1) 0 := by decide

/-- RECV_BYTE and RECV_BIT at their acceptance. -/
theorem witness_StallEndsEveryReceivingCommand_entry :
    owns (.recvByte 1) (limited 2 .entry [0, 0]).cur = true ∧ owns .recvBit (limited 2 .entry [0, 0]).cur = true
      ∧ (limited 2 .entry [0, 0]).cur.pos = .entry ∧ (limited 2 .entry [0, 0]).cfg.stretchLimit = some (1 + 1)
      ∧ nextLevels (1 + 1) (limited 2 .entry [0, 0]) = List.replicate (1 + 1) 0 := by decide

theorem witness_PollRepeatsWhileSclReadsZero :
    owns (.recvByte 0) (running (.recv .byteCommand .poll) [0, 0]).cur = true
      ∧ (running (.recv .byteCommand .poll) [0, 0]).cur.pos = .recv .byteCommand .poll
      ∧ (running (.recv .byteCommand .poll) [0, 0]).cfg.stretchLimit = none
      ∧ ∀ v ∈ nextLevels 2 (running (.recv .byteCommand .poll) [0, 0]), v = 0 := by decide

/-- The byte 0xA5, its second bit after two polls at 0. -/
def bitsA5 : List (Nat × Level) := [(0, 1), (2, 0), (0, 1), (0, 0), (0, 0), (0, 1), (0, 0), (0, 1)]

theorem witness_RecvByteReturnsTheByte :
    (limited 3 .entry (bitsA5.flatMap receiveBitEnv)).cur.pos = .entry ∧ bitsA5.length = 8
      ∧ nextLevels (bitsA5.flatMap receiveBitEnv).length (limited 3 .entry (bitsA5.flatMap receiveBitEnv))
        = bitsA5.flatMap receiveBitEnv
      ∧ ∀ b ∈ bitsA5, b.1 < 3 := by decide

/-- The payload lengths of the four commands at LEN 2, and their bytes. -/
theorem witness_WriteCommandsSucceedWhenAcknowledged :
    (writePlan (.write 0x50) 2).map Prod.fst = some 2 ∧ (writePlan (.wrRegIdx 0x50 0x33) 2).map Prod.fst = some 1
      ∧ (writePlan (.wrReg 0x50 0x10 0xAB) 2).map Prod.fst = some 2 ∧ (writePlan (.wrRegs 0x50 0x10) 2).map Prod.fst = some 3
      ∧ payloadByte (running .entry []) (payloadWrite 0) = some 0x10
      ∧ payloadByte (running .entry []) (payloadWrite 1) = some 0x20
      ∧ payloadByte (running .entry []) (payloadIndex 0x33 0) = some 0x33
      ∧ payloadByte (running .entry []) (payloadReg 0x10 0xAB 1) = some 0xAB
      ∧ payloadByte (running .entry []) (payloadRegs 0x10 0) = some 0x10
      ∧ payloadByte (running .entry []) (payloadRegs 0x10 2) = some 0x20
      ∧ (running .entry [0, 0, 0, 0]).cur.disturbed = [] ∧ (running .entry [0, 0, 0, 0]).cur.pos = .entry
      ∧ nextLevels (3 + 1) (running .entry [0, 0, 0, 0]) = List.replicate (3 + 1) 0 := by decide

/-- All of them together, for WRITE. -/
theorem witness_WriteCommandsSucceedWhenAcknowledged_write :
    (running .entry [0, 0, 0]).cur.pos = .entry
      ∧ writePlan (.write 0x50) (running .entry [0, 0, 0]).cur.len = some (2, payloadWrite)
      ∧ (∀ j < 2, payloadByte (running .entry [0, 0, 0]) (payloadWrite j) = some (if j = 0 then 0x10 else 0x20))
      ∧ (running .entry [0, 0, 0]).cur.disturbed = []
      ∧ (running .entry [0, 0, 0]).cfg.pulledUp (running .entry [0, 0, 0]).sel = true
      ∧ nextLevels (2 + 1) (running .entry [0, 0, 0]) = List.replicate (2 + 1) 0 :=
  ⟨rfl, rfl, by decide, rfl, rfl, by decide⟩

/-- For WR_REG_IDX. -/
theorem witness_WriteCommandsSucceedWhenAcknowledged_wrRegIdx :
    (running .entry [0, 0]).cur.pos = .entry
      ∧ writePlan (.wrRegIdx 0x50 0x33) (running .entry [0, 0]).cur.len = some (1, payloadIndex 0x33)
      ∧ (∀ j < 1, payloadByte (running .entry [0, 0]) (payloadIndex 0x33 j) = some 0x33)
      ∧ (running .entry [0, 0]).cur.disturbed = []
      ∧ (running .entry [0, 0]).cfg.pulledUp (running .entry [0, 0]).sel = true
      ∧ nextLevels (1 + 1) (running .entry [0, 0]) = List.replicate (1 + 1) 0 :=
  ⟨rfl, rfl, by decide, rfl, rfl, by decide⟩

/-- For WR_REG. -/
theorem witness_WriteCommandsSucceedWhenAcknowledged_wrReg :
    (running .entry [0, 0, 0]).cur.pos = .entry
      ∧ writePlan (.wrReg 0x50 0x10 0xAB) (running .entry [0, 0, 0]).cur.len = some (2, payloadReg 0x10 0xAB)
      ∧ (∀ j < 2, payloadByte (running .entry [0, 0, 0]) (payloadReg 0x10 0xAB j) = some (if j = 0 then 0x10 else 0xAB))
      ∧ (running .entry [0, 0, 0]).cur.disturbed = []
      ∧ (running .entry [0, 0, 0]).cfg.pulledUp (running .entry [0, 0, 0]).sel = true
      ∧ nextLevels (2 + 1) (running .entry [0, 0, 0]) = List.replicate (2 + 1) 0 :=
  ⟨rfl, rfl, by decide, rfl, rfl, by decide⟩

/-- For WR_REGS, its index 0x33 before the two bytes of the buffer. -/
theorem witness_WriteCommandsSucceedWhenAcknowledged_wrRegs :
    (running .entry [0, 0, 0, 0]).cur.pos = .entry
      ∧ writePlan (.wrRegs 0x50 0x33) (running .entry [0, 0, 0, 0]).cur.len = some (3, payloadRegs 0x33)
      ∧ (∀ j < 3, payloadByte (running .entry [0, 0, 0, 0]) (payloadRegs 0x33 j)
          = some (if j = 0 then 0x33 else if j = 1 then 0x10 else 0x20))
      ∧ (running .entry [0, 0, 0, 0]).cur.disturbed = []
      ∧ (running .entry [0, 0, 0, 0]).cfg.pulledUp (running .entry [0, 0, 0, 0]).sel = true
      ∧ nextLevels (3 + 1) (running .entry [0, 0, 0, 0]) = List.replicate (3 + 1) 0 :=
  ⟨rfl, rfl, by decide, rfl, rfl, by decide⟩

theorem witness_AddressNackFailsTheCommand :
    (∀ i ∈ [Instr.write 0x50, .read 0x50, .wrRegIdx 0x50 1, .wrReg 0x50 1 2, .wrRegs 0x50 1, .rdReg 0x50 1, .rdRegs 0x50 1],
        isTransaction i = true)
      ∧ (running .entry [1]).cur.pos = .entry ∧ (running .entry [1]).envLevel = 1
      ∧ State.envLevel { running .entry [1] with cfg := bare } = 0 ∧ bare.pulledUp 0 = false
      ∧ (running .entry []).cfg.pulledUp 0 = true := by decide

/-- Without pull-ups an address byte whose sample was 0 fails all the same; with them it is acknowledged (70 R242 item 2;
41_byte_master R145). -/
theorem test_address_without_pullUps :
    shown (exec (.write 0x50) { runningWith (.send .address (.pulse 3)) (fun w => { w with sample := 0 }) [] with cfg := bare })
        = some ([.w .scl 0], 0, 1, true, .stop .addrNack 0)
      ∧ shown (exec (.write 0x50) (runningWith (.send .address (.pulse 3)) (fun w => { w with sample := 0 }) []))
        = some ([.w .scl 0], 0, 1, true, .memRead) := by decide

/-- The first and the last payload byte of WR_REGS at LEN 2, whose bytes the test above gives. -/
theorem witness_DataNackFailsTheCommand :
    nextLevels (0 + 2) (running .entry [0, 1]) = List.replicate (0 + 1) 0 ++ [1] ∧ 0 < 3
      ∧ nextLevels (2 + 2) (running .entry [0, 0, 0, 1]) = List.replicate (2 + 1) 0 ++ [1] ∧ 2 < 3 := by decide

/-- All of them together, for the second byte of WRITE. -/
theorem witness_DataNackFailsTheCommand_write :
    (running .entry [0, 0, 1]).cur.pos = .entry
      ∧ writePlan (.write 0x50) (running .entry [0, 0, 1]).cur.len = some (2, payloadWrite) ∧ 1 < 2
      ∧ (∀ j ≤ 1, payloadByte (running .entry [0, 0, 1]) (payloadWrite j) = some (if j = 0 then 0x10 else 0x20))
      ∧ (running .entry [0, 0, 1]).cur.disturbed = []
      ∧ nextLevels (1 + 2) (running .entry [0, 0, 1]) = List.replicate (1 + 1) 0 ++ [1] :=
  ⟨rfl, rfl, by decide, by decide, rfl, by decide⟩

/-- Two bytes of eight bits, within a limit of three, and room for them. -/
theorem witness_ReadStoresTheReceivedBytes :
    (limited 3 .entry (readEnv (fun _ => bitsA5) 2)).cur.pos = .entry
      ∧ (limited 3 .entry (readEnv (fun _ => bitsA5) 2)).cur.len.toNat = 2
      ∧ (limited 3 .entry (readEnv (fun _ => bitsA5) 2)).mayWrite (bufAddr 16 0x200 1) = true
      ∧ (limited 3 .entry (readEnv (fun _ => bitsA5) 2)).cfg.pulledUp 0 = true
      ∧ nextLevels (readEnv (fun _ => bitsA5) 2).length (limited 3 .entry (readEnv (fun _ => bitsA5) 2))
        = readEnv (fun _ => bitsA5) 2 := by decide

theorem witness_ReadStoresTheReceivedBytes_each :
    ∀ j < 2, bitsA5.length = 8 ∧ withinLimit (limited 3 .entry (readEnv (fun _ => bitsA5) 2)) bitsA5
      ∧ (limited 3 .entry (readEnv (fun _ => bitsA5) 2)).mayWrite (bufAddr 16 0x200 j) = true := by
  intro j hj
  refine ⟨rfl, ?_, by revert j; decide⟩
  intro m hm b hb
  cases hm
  revert b
  decide

/-- RD_REG's one byte. -/
theorem witness_RegisterReadsStoreTheReceivedBytes :
    (running .entry (0 :: 0 :: readEnv (fun _ => bitsA5) 1)).cur.pos = .entry
      ∧ (running .entry (0 :: 0 :: readEnv (fun _ => bitsA5) 1)).cfg.pulledUp 0 = true
      ∧ (∀ j < 1, bitsA5.length = 8 ∧ (running .entry (0 :: 0 :: readEnv (fun _ => bitsA5) 1)).cfg.stretchLimit = none
          ∧ (running .entry (0 :: 0 :: readEnv (fun _ => bitsA5) 1)).mayWrite (bufAddr 16 0x200 j) = true)
      ∧ nextLevels (2 + (readEnv (fun _ => bitsA5) 1).length) (running .entry (0 :: 0 :: readEnv (fun _ => bitsA5) 1))
        = 0 :: 0 :: readEnv (fun _ => bitsA5) 1 := by decide

/-- The two bytes of RD_REGS. -/
theorem witness_RegisterReadsStoreTheReceivedBytes_rdRegs :
    (running .entry (0 :: 0 :: readEnv (fun _ => bitsA5) 2)).cur.pos = .entry
      ∧ 2 = (running .entry (0 :: 0 :: readEnv (fun _ => bitsA5) 2)).cur.len.toNat
      ∧ (running .entry (0 :: 0 :: readEnv (fun _ => bitsA5) 2)).cfg.pulledUp 0 = true
      ∧ (∀ j < 2, bitsA5.length = 8 ∧ (running .entry (0 :: 0 :: readEnv (fun _ => bitsA5) 2)).cfg.stretchLimit = none
          ∧ (running .entry (0 :: 0 :: readEnv (fun _ => bitsA5) 2)).mayWrite (bufAddr 16 0x200 j) = true)
      ∧ nextLevels (2 + (readEnv (fun _ => bitsA5) 2).length) (running .entry (0 :: 0 :: readEnv (fun _ => bitsA5) 2))
        = 0 :: 0 :: readEnv (fun _ => bitsA5) 2 := by decide

theorem witness_RegisterReadFails :
    nextLevels 2 (running .entry [0, 1]) = [0, 1] ∧ nextLevels 3 (running .entry [0, 0, 1]) = [0, 0, 1] := by decide

theorem witness_ReadWaveform : ∀ j < 2, ((fun _ : Nat => bitsA5) j).length = 8 := by decide

/-- A WRITE of the two bytes at 0x100 where WR_REG 0x10, 0x20 sends them from its word; the second byte not acknowledged. -/
theorem witness_PayloadSourceDoesNotShowOnTheBus :
    (running .entry [0, 0, 1]).cur.pos = .entry ∧ (running .entry [0, 0, 1]).cur.busy = true
      ∧ writePlan (.wrReg 0x50 0x10 0x20) (running .entry [0, 0, 1]).cur.len = some (2, payloadReg 0x10 0x20)
      ∧ (running .entry [0, 0, 1]).cur.len.toNat = 2
      ∧ (∀ j < 2, payloadByte (running .entry [0, 0, 1]) (payloadReg 0x10 0x20 j) = some (if j = 0 then 0x10 else 0x20))
      ∧ (∀ j < 2, payloadByte (running .entry [0, 0, 1]) (payloadWrite j) = some (if j = 0 then 0x10 else 0x20))
      ∧ (running .entry [0, 0, 1]).cur.disturbed = [] :=
  ⟨rfl, rfl, rfl, rfl, by decide, by decide, rfl⟩

/-- RD_REG whose index write fails, whose read's address is not acknowledged, and whose byte is received. -/
theorem witness_PayloadSourceDoesNotShowOnTheBus_rdReg :
    nextLevels 2 (running .entry [0, 1]) ≠ [0, 0] ∧ nextLevels 2 (running .entry [1, 0]) ≠ [0, 0]
      ∧ nextLevels 3 (running .entry [0, 0, 1]) = [0, 0, 1]
      ∧ bitsA5.length = 8 ∧ (running .entry []).cfg.stretchLimit = none
      ∧ (running .entry (0 :: 0 :: 0 :: bitsA5.flatMap receiveBitEnv)).mayWrite
          (bufAddr 16 (running .entry []).cur.rxa 0) = true
      ∧ nextLevels (3 + (bitsA5.flatMap receiveBitEnv).length) (running .entry (0 :: 0 :: 0 :: bitsA5.flatMap receiveBitEnv))
        = 0 :: 0 :: 0 :: bitsA5.flatMap receiveBitEnv := by decide

/-- For the frames of exec (EachStepIsOneEventOrFinish, ExecKeepsOperandsAndOtherAgents): every command answers a next state
at its entry. -/
theorem witness_exec_next :
    ∀ i ∈ [Instr.init, .start, .stop, .sendBit 1, .recvBit, .sendByte 0xA5, .recvByte 1, .write 0x50, .read 0x50,
        .wrRegIdx 0x50 1, .wrReg 0x50 1 2, .wrRegs 0x50 1, .rdReg 0x50 1, .rdRegs 0x50 1, .illegalOpE, .illegalRsv1],
      (shown (exec i (running .entry []))).isSome = true := by decide

theorem witness_ExecChangesNoOtherPort :
    (shown (exec .start twoPorts)).isSome = true ∧ 1 ≠ twoPorts.sel := by decide

theorem witness_DriveChangesOnlyBySetLine :
    shown (exec .stop (running .entry [])) = some ([.w .sda 0], 0, 0, true, .stop .command 1)
      ∧ (running .entry []).cur.drive .sda = 1 := by decide

theorem witness_MemoryChangesOnlyAtTheReceivedByte :
    (running .memWrite []).cur.pos = .memWrite ∧ (shown (exec (.read 0x50) (running .memWrite []))).isSome = true
      ∧ 0x201 ≠ bufAddr 16 0x200 0 := by decide

theorem witness_MemoryChangesOnlyAtTheReceivedByte_none : ∀ len, (Instr.write 0x50).rxBytes len = 0 := fun _ => rfl

theorem witness_WorkingRegistersOfOtherCommandsStay :
    (running .entry []).cur.pos ≠ .finish ∧ (running .entry []).cur.pos ≠ .finishFail
      ∧ (running .entry []).cur.pos ≠ .finishStall ∧ (Instr.sendByte 0xA5).reserved = false := by decide

/-- RECV_BIT at its poll, both lines released: the invariant holds, and the step is a read. -/
def polling : State :=
  { running (.recv .bitCommand .poll) [1] with
    cur := { (running (.recv .bitCommand .poll) [1]).cur with scl := 1, sda := 1, cmd := 0x00000004 } }

theorem witness_inv : inv polling = true ∧ inv twoPorts = true := by decide

theorem witness_EveryStepKeepsTheInvariant :
    (match step polling with | .next t => t.cur.history | .fault _ | .refused _ => []) = [.r .scl 1] := by decide

theorem witness_ReadsAreMadeWithTheLineReleased :
    inv polling = true ∧ polling.cur.busy = true
      ∧ shown (exec (decode polling.cur.cmd) polling)
        = some (polling.cur.history ++ [.r .scl 1], 1, 1, true, .recv .bitCommand .sample) := by decide

/-- A WRITE in its address byte; one that ends; START's SDA change that forms the condition. -/
theorem witness_TransactionKeepsItsLineLevels :
    isTransaction (.write 0x50) = true ∧ owns (.write 0x50) (running (.send .address (.bit 0)) []).cur = true
      ∧ transactionLevels (running (.send .address (.bit 0)) []).cur = true
      ∧ shown (exec (.write 0x50) (running (.send .address (.bit 0)) []))
        = some ([.w .sda 0], 0, 0, true, .send .address (.bit 1))
      ∧ formsCondition (.send .address (.bit 0)) = false := by decide

/-- A READ whose stop() has released both lines, at its finish. -/
def released : State :=
  { running .finish [] with cur := { (running .finish []).cur with scl := 1, sda := 1 } }

theorem witness_TransactionEndsWithBothLinesReleased :
    owns (.read 0x50) released.cur = true ∧ transactionLevels released.cur = true ∧ released.cur.busy = true
      ∧ ended (exec (.read 0x50) released) = some (0, false) := by decide

/-- RD_REG at its finish: RESULT becomes 0x210. -/
def completing : State :=
  { runningWith .finish (fun w => { w with shift := 0x42, phase := 1 }) [] with
    cur := { (runningWith .finish (fun w => { w with shift := 0x42, phase := 1 }) []).cur with cmd := 0x00010A0C } }

theorem witness_ResultChangesOnlyAtCompletion :
    ended (step completing) = some (0x210, false) ∧ (completing.port 0).result = 0 ∧ (completing.port 0).busy = true := by
  decide

end Sys2Proof.Machine.Tests
end

section
/-! PROOF. An engine step is one primitive, which appends its one event and leaves RESULT and BUSY, or it is finish
(00_scope R9, 20_memory R56, 10_state R30). -/

namespace Sys2Proof.Machine

/-- From s to t the history of the port in focus grew by the event e, and what a completion writes stayed as it was. -/
def LogsOne (e : Event) (s t : State) : Prop :=
  t.cur.history = s.cur.history ++ [e] ∧ t.cur.busy = s.cur.busy ∧ t.cur.result = s.cur.result
    ∧ t.cur.completed = s.cur.completed

theorem logsOne_log (e : Event) (s : State) : LogsOne e s (s.log e) := ⟨rfl, rfl, rfl, rfl⟩

theorem logsOne_perform (a : LineAct) (s : State) : LogsOne (a.event s.cfg.tUs) s (a.perform s) := by
  cases a with
  | set l v => cases l <;> exact ⟨rfl, rfl, rfl, rfl⟩
  | wait => exact logsOne_log _ s

theorem logsOne_getLine (l : Line) (s : State) : LogsOne (.r l (s.level l)) s (s.getLine l) := by
  obtain ⟨env, presented, h⟩ := getLine_eq l s
  rw [h]
  exact ⟨rfl, rfl, rfl, rfl⟩

/-- A move of the sequencer after the primitive touches neither the history nor what a completion writes. -/
theorem LogsOne.of_upTo {e : Event} {s t u : State} (hu : LogsOne e s u) (h : UpTo t u) : LogsOne e s t := by
  unfold UpTo at h
  rw [h]
  exact hu

/-- Every primitive but finish appends exactly its own event. -/
theorem Primitive.logsOne_or_finish {s t : State} (h : Primitive s t) :
    (∃ e, LogsOne e s t) ∨ t = s.finish t.cur.result := by
  cases h with
  | line a h => exact .inl ⟨_, (logsOne_perform a s).of_upTo h⟩
  | read l h => exact .inl ⟨_, (logsOne_getLine l s).of_upTo h⟩
  | memRead a v n h => exact .inl ⟨_, LogsOne.of_upTo (logsOne_log _ { s with draws := n }) h⟩
  | memWrite _ h => exact .inl ⟨_, LogsOne.of_upTo (logsOne_log _ { s with mem := memPut _ _ s.mem }) h⟩
  | diag e h => exact .inl ⟨_, (logsOne_log _ s).of_upTo h⟩
  | finish r _ h => exact .inr (by rw [h, State.finish_cur_result])

/-- Settles O47: a step of exec is one primitive (exec_primitive), and each primitive appends one event or is finish. -/
theorem eachStepIsOneEventOrFinish : Obligations.EachStepIsOneEventOrFinish := by
  intro i s t h
  exact (exec_primitive h).logsOne_or_finish

end Sys2Proof.Machine
end

section
/-! PROOF. The frame of an engine step, read off its primitive (10_state R21, R26, R35; 20_memory R59). -/

namespace Sys2Proof.Machine

theorem perform_eq (a : LineAct) (s : State) :
    a.perform s = { s with cur := { s.cur with
      scl := lineLevel .scl [a] s.cur.scl, sda := lineLevel .sda [a] s.cur.sda
      history := s.cur.history ++ [a.event s.cfg.tUs] } } := performAll_eq [a] s

@[simp] theorem perform_cur_work (a : LineAct) (s : State) : (a.perform s).cur.work = s.cur.work := by rw [perform_eq]

/-- From s to t the operands of the port in focus, the other ports and the data of the other agents stay as they are
(10_state R26, R35; 20_memory R59). -/
def SameAgents (s t : State) : Prop :=
  t.cur.cmd = s.cur.cmd ∧ t.cur.len = s.cur.len ∧ t.cur.txa = s.cur.txa ∧ t.cur.rxa = s.cur.rxa
    ∧ t.cur.disturbed = s.cur.disturbed ∧ t.cfg = s.cfg ∧ t.sel = s.sel ∧ t.others = s.others
    ∧ t.writable = s.writable ∧ t.inbox = s.inbox ∧ t.replies = s.replies ∧ t.turn = s.turn

theorem SameAgents.of_upTo {s t u : State} (hu : SameAgents s u) (h : UpTo t u) : SameAgents s t := by
  unfold UpTo at h
  rw [h]
  exact hu

theorem Primitive.sameAgents {s t : State} (h : Primitive s t) : SameAgents s t := by
  cases h with
  | line a h => exact SameAgents.of_upTo (by simp [SameAgents, perform_eq]) h
  | read l h => exact SameAgents.of_upTo (by simp [SameAgents]) h
  | memRead a v n h => exact SameAgents.of_upTo (by simp [SameAgents]) h
  | memWrite _ h => exact SameAgents.of_upTo (by simp [SameAgents]) h
  | diag e h => exact SameAgents.of_upTo (by simp [SameAgents]) h
  | finish r _ h => simp [h, SameAgents]

/-- Settles O48: every primitive keeps the operands and the other agents (Primitive.sameAgents). -/
theorem execKeepsOperandsAndOtherAgents : Obligations.ExecKeepsOperandsAndOtherAgents := by
  intro i s t h
  exact (exec_primitive h).sameAgents

theorem UpTo.drive {t u : State} (h : UpTo t u) (l : Line) : t.cur.drive l = u.cur.drive l := by
  unfold UpTo at h
  rw [h]
  rfl

/-- SetLine is the one act that changes a drive level, of its own line only. -/
theorem perform_drive (a : LineAct) (l : Line) (s : State) :
    (a.perform s).cur.drive l = s.cur.drive l ∨ a = .set l ((a.perform s).cur.drive l) := by
  cases a with
  | wait => exact .inl rfl
  | set m v => cases m <;> cases l <;> simp [LineAct.perform, PortState.drive]

/-- The drive levels stay, or the primitive was SetLine of the line. -/
theorem Primitive.drive {s t : State} (h : Primitive s t) (l : Line) :
    t.cur.drive l = s.cur.drive l ∨ t.cur.history = s.cur.history ++ [.w l (t.cur.drive l)] := by
  cases h with
  | line a h =>
    rw [h.drive]
    refine (perform_drive a l s).imp_right fun ha => ?_
    have hlog := ((logsOne_perform a s).of_upTo h).1
    rw [ha] at hlog
    exact hlog
  | read m h => exact .inl ((h.drive l).trans (by cases l <;> simp [PortState.drive]))
  | memRead a v n h => exact .inl (h.drive l)
  | memWrite _ h => exact .inl (h.drive l)
  | diag e h => exact .inl (h.drive l)
  | finish r _ h => exact .inl (h ▸ rfl)

/-- Settles O50: of the primitives only SetLine changes a drive level (Primitive.drive). -/
theorem driveChangesOnlyBySetLine : Obligations.DriveChangesOnlyBySetLine := by
  intro i s t l h hne
  exact ((exec_primitive h).drive l).resolve_left hne

end Sys2Proof.Machine
end

section
/-! PROOF. The positions of a command's pseudocode: at each of them exec performs the primitive there and moves on to another
of them, or finishes, or is stuck at its memory access (10_state R27, R28; 60_exceptions R210; 70 R246). -/

namespace Sys2Proof.Machine

/-- The outcome is a next state, of which P holds. -/
def Leads (P : State → Prop) (o : Out) : Prop := ∃ t, o = .next t ∧ P t

/-- From s to t a command that stays in flight has gone on: what it leaves of the port, what it keeps of the lines before a
read, and a read only of a line the engine drives at 1 (10_state R23). -/
structure Moves (s t : State) : Prop where
  len : t.cur.len = s.cur.len
  result : t.cur.result = s.cur.result
  ready : readReady s.cur = true → readReady t.cur = true
  reads : ∀ l v, readReady s.cur = true → t.cur.history = s.cur.history ++ [.r l v] →
    s.cur.drive l = 1 ∧ v = s.envLevel

/-- u is s with a line driven or a delay made, up to POS and working registers other than IDX and PHASE. -/
structure Performed (s u : State) : Prop where
  act : ∃ a : LineAct, UpTo u (a.perform s)
  idx : u.cur.work.idx = s.cur.work.idx
  phase : u.cur.work.phase = s.cur.work.phase

theorem performed_perform (a : LineAct) (s : State) : Performed s (a.perform s) :=
  ⟨⟨a, UpTo.refl _⟩, by simp, by simp⟩

theorem Performed.of_upTo {s u v : State} (h : Performed s u) (hv : UpTo v u) (hi : v.cur.work.idx = u.cur.work.idx)
    (hp : v.cur.work.phase = u.cur.work.phase) : Performed s v := by
  obtain ⟨a, ha⟩ := h.act
  exact ⟨⟨a, hv.trans ha⟩, hi.trans h.idx, hp.trans h.phase⟩

/-- A command that performs any primitive goes on, if what it needs of the lines is so before and after. -/
theorem Moves.of_event {e : Event} {s t u : State} (hu : UpTo t u) (hlog : LogsOne e s u) (hlen : u.cur.len = s.cur.len)
    (hready : readReady s.cur = true → readReady t.cur = true)
    (hread : ∀ l v, e = .r l v → readReady s.cur = true → s.cur.drive l = 1 ∧ v = s.envLevel) : Moves s t where
  len := by
    unfold UpTo at hu
    rw [hu]
    exact hlen
  result := (hlog.of_upTo hu).2.2.1
  ready := hready
  reads l v hr h := by
    have : e = .r l v := by simpa [(hlog.of_upTo hu).1] using h
    exact hread l v this hr

theorem Moves.of_perform {a : LineAct} {s t : State} (hu : UpTo t (a.perform s))
    (hready : readReady s.cur = true → readReady t.cur = true) : Moves s t :=
  Moves.of_event hu (logsOne_perform a s) (by simp [perform_eq]) hready
    (fun l v h => by cases a <;> cases h)

/-- The level of a line the engine does not drive low is the environment's (10_state R22, R23). -/
theorem level_of_released {l : Line} {s : State} (h : s.cur.drive l = 1) : s.level l = s.envLevel := by
  have one_and (v : Level) : 1 &&& v = v := by revert v; decide
  rw [State.level, h, one_and]

theorem Moves.of_getLine {l : Line} {s t : State} (hu : UpTo t (s.getLine l))
    (hready : readReady s.cur = true → readReady t.cur = true) (hd : readReady s.cur = true → s.cur.drive l = 1) :
    Moves s t :=
  Moves.of_event hu (logsOne_getLine l s) (by simp) hready fun m v h hr => by
    cases h
    exact ⟨hd hr, level_of_released (hd hr)⟩

theorem Moves.of_diag {e : DiagEvent} {s t : State} (hu : UpTo t (s.diag e)) (hready : readReady t.cur = true) : Moves s t :=
  Moves.of_event hu (logsOne_log _ s) rfl (fun _ => hready) (fun l v h => by cases h)

/-- After a line is driven or a delay made, a move to a position that needs nothing of the lines. -/
theorem Performed.moves {f : State → State} {s u : State} (h : Performed s u) (hf : Silent f)
    (hready : readReady (f u).cur = true) : Moves s (f u) := by
  obtain ⟨a, ha⟩ := h.act
  exact Moves.of_perform ((hf u).trans ha) fun _ => hready

/-! How many primitives each straight line of pseudocode has. -/

@[simp] theorem initCode_length : initCode.length = 2 := rfl
@[simp] theorem startCode_length : startCode.length = 8 := rfl
@[simp] theorem stopCode_length : stopCode.length = 6 := rfl
@[simp] theorem sendBitCode_length (b : Level) : (sendBitCode b).length = 5 := rfl
@[simp] theorem releaseCode_length : releaseCode.length = 3 := rfl
@[simp] theorem pulse9Code_length : pulse9Code.length = 4 := rfl
@[simp] theorem raiseCode_length : raiseCode.length = 3 := rfl
@[simp] theorem lowerCode_length : lowerCode.length = 2 := rfl
@[simp] theorem ackCode_length (a : BitVec 1) : (ackCode a).length = 5 := rfl

/-! One lemma per procedure: at a position of it, it leads to another, or on to what follows it. -/

theorem leads_lineStep {P : State → Prop} {code : List LineAct} {here : Nat → Pos} {ret : State → State} {k : Nat}
    {s : State} (hk : k < code.length)
    (hin : ∀ u, k + 1 < code.length → Performed s u → u.cur.work = s.cur.work → P (u.goto (here (k + 1))))
    (hret : ∀ u, Performed s u → u.cur.work = s.cur.work → P (ret u)) : Leads P (lineStep code here ret k s) := by
  refine ⟨_, lineStep_eq hk, ?_⟩
  split
  · exact hin _ ‹_› (performed_perform _ s) (perform_cur_work _ s)
  · exact hret _ (performed_perform _ s) (perform_cur_work _ s)

/-- The engine releases SDA before it samples the acknowledgement (41_byte_master R141). -/
theorem releaseCode_sda {k : Nat} (hk : k < 3) {s : State} (h : k = 0 ∨ s.cur.sda = 1) :
    ((releaseCode[k]'hk).perform s).cur.sda = 1 := by
  match k, hk with
  | 0, _ => simp [releaseCode, LineAct.perform]
  | 1, _ | 2, _ => simpa [releaseCode, LineAct.perform] using h

/-- After send_bit the next position of send_byte, which needs nothing of the lines (41_byte_master R141). -/
theorem nextSendBit_next {site : SendSite} {u : State} (hbit : u.cur.work.bitcnt.toNat < 8) :
    ∃ p, (nextSendBit site u).cur.pos = .send site p ∧ sendOwns (nextSendBit site u).cur.work p = true
      ∧ readReady (nextSendBit site u).cur = true ∧ (nextSendBit site u).cur.work.idx = u.cur.work.idx
      ∧ (nextSendBit site u).cur.work.phase = u.cur.work.phase := by
  simp only [nextSendBit]
  split
  · exact ⟨.bit 0, rfl, by simpa [sendOwns] using ‹_›, rfl, rfl, rfl⟩
  · rename_i hlast
    refine ⟨.release 0, rfl, ?_, rfl, rfl, rfl⟩
    simp only [State.setWork_cur_work, State.goto_cur_work, sendOwns] at hlast ⊢
    simp
    bv_omega

/-- At a position of send_byte the engine goes on to another, BITCNT in its range, or has the acknowledgement
(41_byte_master R141). -/
theorem leads_sendByteStep {P : State → Prop} {site : SendSite} {ret : State → State} {p : SendPos} {s : State}
    (hp : s.cur.pos = .send site p) (hown : sendOwns s.cur.work p = true)
    (hin : ∀ t p', Moves s t → t.cur.pos = .send site p' → sendOwns t.cur.work p' = true →
      t.cur.work.idx = s.cur.work.idx → t.cur.work.phase = s.cur.work.phase → P t)
    (hret : ∀ u, Performed s u → P (ret u)) : Leads P (sendByteStep site ret p s) := by
  cases p with
  | bit k =>
    simp only [sendOwns, Bool.and_eq_true, decide_eq_true_eq] at hown
    obtain ⟨hk, hbit⟩ := hown
    simp only [sendByteStep]
    refine leads_lineStep (code := sendBitCode _) hk (fun u hk' h hw => ?_) fun u h hw => ?_
    · refine hin _ (.bit (k + 1)) (h.moves (silent_goto _) rfl) rfl ?_ h.idx h.phase
      simpa [sendOwns, hw, hbit] using hk'
    · obtain ⟨p, hpos, hsend, hready, hidx, hphase⟩ := nextSendBit_next (site := site) (u := u) (by rwa [hw])
      exact hin _ p (h.moves (silent_nextSendBit site) hready) hpos hsend (hidx.trans h.idx) (hphase.trans h.phase)
  | release k =>
    simp only [sendOwns, Bool.and_eq_true, decide_eq_true_eq] at hown
    obtain ⟨hk, hbit⟩ := hown
    simp only [sendByteStep]
    refine ⟨_, lineStep_eq (code := releaseCode) hk, ?_⟩
    have hready : readReady s.cur = true → ((releaseCode[k]'hk).perform s).cur.sda = 1 := fun h =>
      releaseCode_sda hk (by simpa [readReady, hp] using h)
    split
    · exact hin _ (.release (k + 1)) (Moves.of_perform (upTo_goto _ _) (fun h => by simp [readReady, hready h])) rfl
        (by simpa [sendOwns, hbit] using ‹k + 1 < releaseCode.length›) (by simp) (by simp)
    · exact hin _ .sample (Moves.of_perform (upTo_goto _ _) (fun h => by simp [readReady, hready h])) rfl
        (by simpa [sendOwns] using hbit) (by simp) (by simp)
  | sample =>
    refine ⟨_, rfl, hin _ (.pulse 0) (Moves.of_getLine (upTo_goto _ _) (fun _ => rfl) ?_) rfl ?_ (by simp) (by simp)⟩
    · simp [readReady, hp, PortState.drive]
    · simpa [sendOwns] using hown
  | pulse k =>
    simp only [sendOwns, Bool.and_eq_true, decide_eq_true_eq] at hown
    obtain ⟨hk, hbit⟩ := hown
    simp only [sendByteStep]
    refine leads_lineStep (code := pulse9Code) hk (fun u hk' h hw => ?_) fun u h hw => ?_
    · refine hin _ (.pulse (k + 1)) (h.moves (silent_goto _) rfl) rfl ?_ h.idx h.phase
      simpa [sendOwns, hw, hbit] using hk'
    · exact hret _ (h.of_upTo (upTo_setWork _ _) rfl rfl)

/-- The engine raises SDA, then SCL, before it polls (40_bit_master R115). -/
theorem raiseCode_levels {k : Nat} (hk : k < 3) {s : State} (hsda : k = 0 ∨ s.cur.sda = 1) (hscl : k ≤ 1 ∨ s.cur.scl = 1) :
    ((raiseCode[k]'hk).perform s).cur.sda = 1 ∧ (1 ≤ k → ((raiseCode[k]'hk).perform s).cur.scl = 1) := by
  match k, hk with
  | 0, _ => simp [raiseCode, LineAct.perform]
  | 1, _ | 2, _ => simp_all [raiseCode, LineAct.perform]

/-- A poll goes on to the sample, to another poll, or to the report of a stall (40_bit_master R115, R116). -/
theorem pollStep_next (site : RecvSite) (s : State) :
    (pollStep site s).cur.pos = .recv site .sample ∨ (pollStep site s).cur.pos = .recv site .poll
      ∨ (pollStep site s).cur.pos = .diagStall := by
  simp only [pollStep]
  split
  · exact .inl rfl
  · split
    · exact .inr (.inl rfl)
    · split
      · exact .inr (.inr rfl)
      · exact .inr (.inl rfl)

/-- Of the working registers a poll writes SAMPLE and POLLS only (40_bit_master R115, R116). -/
theorem pollStep_work (site : RecvSite) (s : State) :
    (pollStep site s).cur.work = { s.cur.work with
      sample := (pollStep site s).cur.work.sample, polls := (pollStep site s).cur.work.polls } := by
  simp only [pollStep]
  split
  · simp
  · split
    · simp
    · split <;> simp

/-- A poll leaves the drive levels. -/
theorem pollStep_drive (site : RecvSite) (s : State) (l : Line) : (pollStep site s).cur.drive l = s.cur.drive l := by
  rw [(pollStep_upTo site s).drive]
  cases l <;> simp [PortState.drive]

/-- Through the poll loop and the sample both lines are released (40_bit_master R115). -/
theorem readReady_polling {site : RecvSite} {q : PortState} (h : q.pos = .recv site .poll ∨ q.pos = .recv site .sample) :
    readReady q = true ↔ q.drive .sda = 1 ∧ q.drive .scl = 1 := by
  rcases h with h | h <;> simp [readReady, h, PortState.drive]

/-- At a position of receive_bit the engine goes on to another, BITCNT, IDX and PHASE kept, or to the report of a stall, or
has the bit (40_bit_master R115, R116). -/
theorem leads_receiveBitStep {P : State → Prop} {site : RecvSite} {ret : State → State} {p : RecvPos} {s : State}
    (hp : s.cur.pos = .recv site p) (hown : recvBitOwns p = true)
    (hin : ∀ t p', Moves s t → t.cur.pos = .recv site p' → recvBitOwns p' = true →
      t.cur.work.bitcnt = s.cur.work.bitcnt → t.cur.work.idx = s.cur.work.idx →
      t.cur.work.phase = s.cur.work.phase → P t)
    (hstall : ∀ t, Moves s t → t.cur.pos = .diagStall → t.cur.work.phase = s.cur.work.phase → P t)
    (hret : ∀ u, Performed s u → u.cur.work = s.cur.work → P (ret u)) : Leads P (receiveBitStep site ret p s) := by
  cases p with
  | raise k =>
    simp only [recvBitOwns, decide_eq_true_eq] at hown
    simp only [receiveBitStep]
    have hlevels (h : readReady s.cur = true) :=
      raiseCode_levels hown (s := s) (by simp_all [readReady]) (by simp_all [readReady])
    refine ⟨_, lineStep_eq (code := raiseCode) hown, ?_⟩
    split
    · rename_i hk
      refine hin _ (.raise (k + 1)) (Moves.of_perform (upTo_goto _ _) fun h => ?_) rfl (by simpa [recvBitOwns] using hk)
        (by simp) (by simp) (by simp)
      obtain ⟨hsda, hscl⟩ := hlevels h
      rcases k.eq_zero_or_pos with h0 | h0
      · subst h0
        simp [readReady, hsda]
      · simp [readReady, hsda, hscl h0]
    · rename_i hk
      refine hin _ .poll (Moves.of_perform (silent_work_goto _ _ _) fun h => ?_) rfl rfl (by simp) (by simp) (by simp)
      obtain ⟨hsda, hscl⟩ := hlevels h
      have hk1 : 1 ≤ k := by simp at hk; omega
      simp [readReady, hsda, hscl hk1]
  | poll =>
    simp only [receiveBitStep]
    have hready := readReady_polling (.inl hp)
    have hmoves (h : readReady s.cur = true → readReady (pollStep site s).cur = true) : Moves s (pollStep site s) :=
      Moves.of_getLine (pollStep_upTo site s) h fun h => (hready.1 h).2
    have hwork := pollStep_work site s
    refine ⟨_, rfl, ?_⟩
    rcases pollStep_next site s with hpos | hpos | hpos
    · refine hin _ .sample (hmoves fun h => ?_) hpos rfl (by rw [hwork]) (by rw [hwork]) (by rw [hwork])
      rw [readReady_polling (.inr hpos), pollStep_drive, pollStep_drive]
      exact hready.1 h
    · refine hin _ .poll (hmoves fun h => ?_) hpos rfl (by rw [hwork]) (by rw [hwork]) (by rw [hwork])
      rw [readReady_polling (.inl hpos), pollStep_drive, pollStep_drive]
      exact hready.1 h
    · exact hstall _ (hmoves fun _ => by simp [readReady, hpos]) hpos (by rw [hwork])
  | sample =>
    refine ⟨_, rfl, hin _ (.lower 0) (Moves.of_getLine (upTo_goto _ _) (fun _ => rfl) fun h => ?_) rfl rfl
      (by simp) (by simp) (by simp)⟩
    exact ((readReady_polling (.inr hp)).1 h).1
  | lower k =>
    simp only [recvBitOwns, decide_eq_true_eq] at hown
    simp only [receiveBitStep]
    refine leads_lineStep (code := lowerCode) hown (fun u hk' h hw => ?_) hret
    exact hin _ (.lower (k + 1)) (h.moves (silent_goto _) rfl) rfl (by simpa [recvBitOwns] using hk')
      (by simp [hw]) h.idx h.phase
  | ack k => cases hown

/-- Of the positions of receive_byte those before the acknowledge level are those of receive_bit (41_byte_master R142). -/
theorem recvOwns_bit {w : Work} {p : RecvPos} (h : recvBitOwns p = true) :
    recvOwns w p = true ↔ w.bitcnt.toNat < 8 := by
  cases p <;> simp_all [recvOwns, recvBitOwns]

/-- After receive_bit the next position of receive_byte, which needs nothing of the lines (41_byte_master R142). -/
theorem nextReceiveBit_next {site : RecvSite} {u : State} (hbit : u.cur.work.bitcnt.toNat < 8) :
    ∃ p, (nextReceiveBit site u).cur.pos = .recv site p ∧ recvOwns (nextReceiveBit site u).cur.work p = true
      ∧ readReady (nextReceiveBit site u).cur = true ∧ (nextReceiveBit site u).cur.work.idx = u.cur.work.idx
      ∧ (nextReceiveBit site u).cur.work.phase = u.cur.work.phase := by
  simp only [nextReceiveBit]
  split
  · exact ⟨.raise 0, rfl, by simpa [recvOwns] using ‹_›, rfl, rfl, rfl⟩
  · rename_i hlast
    refine ⟨.ack 0, rfl, ?_, rfl, rfl, rfl⟩
    simp only [State.setWork_cur_work, State.goto_cur_work, recvOwns] at hlast ⊢
    simp
    bv_omega

/-- At a position of receive_byte the engine goes on to another, BITCNT in its range, or to the report of a stall, or has the
byte (41_byte_master R142, 40_bit_master R116). -/
theorem leads_receiveByteStep {P : State → Prop} {site : RecvSite} {ack : BitVec 1} {ret : State → State} {p : RecvPos}
    {s : State} (hp : s.cur.pos = .recv site p) (hown : recvOwns s.cur.work p = true)
    (hin : ∀ t p', Moves s t → t.cur.pos = .recv site p' → recvOwns t.cur.work p' = true →
      t.cur.work.idx = s.cur.work.idx → t.cur.work.phase = s.cur.work.phase → P t)
    (hstall : ∀ t, Moves s t → t.cur.pos = .diagStall → t.cur.work.phase = s.cur.work.phase → P t)
    (hret : ∀ u, Performed s u → P (ret u)) : Leads P (receiveByteStep site ack ret p s) := by
  have hbitStep (hb : recvBitOwns p = true) : Leads P (receiveBitStep site (nextReceiveBit site) p s) := by
    have hbit := (recvOwns_bit hb).1 hown
    refine leads_receiveBitStep hp hb (fun t p' hm hpos hb' hcnt => ?_) hstall fun u h hw => ?_
    · exact hin t p' hm hpos ((recvOwns_bit hb').2 (hcnt ▸ hbit))
    · obtain ⟨p, hpos, hrecv, hready, hidx, hphase⟩ := nextReceiveBit_next (site := site) (u := u) (by rwa [hw])
      exact hin _ p (h.moves (silent_nextReceiveBit site) hready) hpos hrecv (hidx.trans h.idx) (hphase.trans h.phase)
  cases p with
  | ack k =>
    simp only [recvOwns, Bool.and_eq_true, decide_eq_true_eq] at hown
    obtain ⟨hk, hbit⟩ := hown
    simp only [receiveByteStep]
    refine leads_lineStep (code := ackCode _) hk (fun u hk' h hw => ?_) fun u h _ => hret u h
    refine hin _ (.ack (k + 1)) (h.moves (silent_goto _) rfl) rfl ?_ h.idx h.phase
    simpa [recvOwns, hw, hbit] using hk'
  | raise k => exact hbitStep (by simp_all [recvOwns, recvBitOwns])
  | poll => exact hbitStep rfl
  | sample => exact hbitStep rfl
  | lower k => exact hbitStep (by simp_all [recvOwns, recvBitOwns])

/-! One transaction. -/

/-- A move of the sequencer from u, without a primitive, has reached at t a position that `own` has and that needs nothing of
the lines, PHASE kept. -/
def Lands (own : PortState → Bool) (u t : State) : Prop :=
  own t.cur = true ∧ readReady t.cur = true ∧ t.cur.work.phase = u.cur.work.phase

theorem nextPayload_lands (n : Nat) (data : Nat → Payload) (u : State) :
    Lands (writeOwns n data) u (nextPayload n data u) := by
  simp only [nextPayload]
  split
  · rename_i hidx
    split
    · simp [Lands, callSendByte, writeOwns, sendOwns, readReady, hidx]
    · simp_all [Lands, writeOwns, readReady]
  · simp [Lands, writeOwns, readReady]

theorem afterPayload_lands {n : Nat} (data : Nat → Payload) {u : State} (hidx : u.cur.work.idx.toNat < n) :
    Lands (writeOwns n data) u (afterPayload n data u) := by
  simp only [afterPayload]
  split
  · simp [Lands, writeOwns, readReady, hidx]
  · exact nextPayload_lands n data _

theorem nextReceived_lands (n : Nat) (u : State) : Lands (readOwns n) u (nextReceived n u) := by
  simp only [nextReceived]
  split
  · rename_i hidx
    simp [Lands, callReceiveByte, readOwns, recvOwns, readReady, hidx]
  · simp [Lands, readOwns, readReady]

/-- After the address byte the transaction is stopped or goes on (42_buffer_master R161, R162). -/
theorem afterAddress_lands {own : PortState → Bool} {go : State → State} {u : State}
    (hnack : own (u.goto (.stop .addrNack 0)).cur = true) (hgo : Lands own u (go u)) :
    Lands own u (afterAddress go u) := by
  simp only [afterAddress]
  split
  · exact ⟨hnack, rfl, rfl⟩
  · exact hgo

theorem leads_memRead {P : State → Prop} {a : Nat} {use : Byte → State → State} {s : State} (hr : s.mayRead a = true)
    (h : ∀ n v, P (use v (({ s with draws := n }).log (.mr a v)))) : Leads P (s.memRead a use) := by
  obtain ⟨n, hn⟩ := looked_eq a (s.disturbedAt a) s
  simp only [State.memRead, hr, if_true, hn]
  exact ⟨_, rfl, h n _⟩

theorem leads_memWrite {P : State → Prop} {a : Nat} {v : Byte} {ret : State → State} {s : State} (hw : s.mayWrite a = true)
    (h : P (ret (({ s with mem := memPut a v s.mem }).log (.mw a v)))) : Leads P (s.memWrite a v ret) :=
  ⟨_, memWrite_provided hw, h⟩

/-- At a position of a write the engine goes on to another, PHASE kept, or finishes with FAIL, or has ended the transaction,
the byte it reads of caller memory provided (42_buffer_master R161; 60_exceptions R214). -/
theorem leads_writeStep {P : State → Prop} {addr : BitVec 7} {n : Nat} {data : Nat → Payload} {ret : State → State}
    {s : State} (hown : writeOwns n data s.cur = true)
    (hmem : ∀ off, s.cur.pos = .memRead → data s.cur.work.idx.toNat = .buffer off →
      s.mayRead (bufAddr s.cfg.addrW s.cur.txa off) = true)
    (hin : ∀ t, Moves s t → writeOwns n data t.cur = true → t.cur.work.phase = s.cur.work.phase → P t)
    (hfin : P (s.finish resultFail)) (hret : ∀ u, Performed s u → P (ret u)) :
    Leads P (writeStep addr n data ret s) := by
  unfold writeStep
  split
  · rename_i k hp
    simp only [writeOwns, hp, decide_eq_true_eq] at hown
    refine leads_lineStep (code := startCode) hown (fun u hk' h _ => ?_) fun u h _ => ?_
    · exact hin _ (h.moves (silent_goto _) rfl) (by simpa [writeOwns] using hk') h.phase
    · exact hin _ (h.moves (silent_callSendByte _ _) rfl) rfl h.phase
  · rename_i p hp
    simp only [writeOwns, hp] at hown
    refine leads_sendByteStep hp hown (fun t p' hm hpos hsend _ hphase => ?_) fun u h => ?_
    · exact hin _ hm (by simpa [writeOwns, hpos] using hsend) hphase
    · obtain ⟨ho, hready, hphase⟩ := afterAddress_lands (own := writeOwns n data) (u := u)
        (go := fun t => nextPayload n data (t.setWork fun w => { w with idx := 0 })) rfl (nextPayload_lands n data _)
      exact hin _ (h.moves (silent_afterAddress ((silent_nextPayload n data).comp fun v => upTo_setWork v _)) hready) ho
        (hphase.trans h.phase)
  · rename_i hp
    simp only [writeOwns, hp, Bool.and_eq_true, decide_eq_true_eq] at hown
    obtain ⟨hidx, hbuf⟩ := hown
    unfold memReadStep
    split
    · rename_i off hoff
      refine leads_memRead (hmem off hp hoff) fun m v => hin _ ?_ ?_ rfl
      · exact Moves.of_event (silent_callSendByte _ _ _) (logsOne_log (.mr _ v) { s with draws := m }) rfl (fun _ => rfl)
          (fun l v h => by cases h)
      · simp [callSendByte, writeOwns, sendOwns, hidx]
    · simp_all
  · rename_i p hp
    simp only [writeOwns, hp, Bool.and_eq_true, decide_eq_true_eq] at hown
    obtain ⟨hsend, hidx⟩ := hown
    refine leads_sendByteStep hp hsend (fun t p' hm hpos hsend hi hphase => ?_) fun u h => ?_
    · exact hin _ hm (by simp [writeOwns, hpos, hsend, hi, hidx]) hphase
    · obtain ⟨ho, hready, hphase⟩ := afterPayload_lands data (u := u) (by rwa [h.idx])
      exact hin _ (h.moves (silent_afterPayload _ _) hready) ho (hphase.trans h.phase)
  · rename_i k hp
    simp only [writeOwns, hp, decide_eq_true_eq] at hown
    refine leads_lineStep (code := stopCode) hown (fun u hk' h _ => ?_) fun u h _ => hret u h
    exact hin _ (h.moves (silent_goto _) rfl) (by simpa [writeOwns] using hk') h.phase
  · rename_i k hp
    simp only [writeOwns, hp, decide_eq_true_eq] at hown
    refine leads_lineStep (code := stopCode) hown (fun u hk' h _ => ?_) fun u h _ => ?_
    · exact hin _ (h.moves (silent_goto _) rfl) (by simpa [writeOwns] using hk') h.phase
    · exact hin _ (h.moves (silent_goto _) rfl) rfl h.phase
  · rename_i k hp
    simp only [writeOwns, hp, Bool.and_eq_true, decide_eq_true_eq] at hown
    obtain ⟨hk, hidx⟩ := hown
    refine leads_lineStep (code := stopCode) hk (fun u hk' h _ => ?_) fun u h _ => ?_
    · exact hin _ (h.moves (silent_goto _) rfl) (by simpa [writeOwns, h.idx, hidx] using hk') h.phase
    · exact hin _ (h.moves (silent_goto _) rfl) (by simpa [writeOwns, h.idx] using hidx) h.phase
  · exact ⟨_, rfl, hin _ (Moves.of_diag (upTo_goto _ _) rfl) rfl rfl⟩
  · exact ⟨_, rfl, hin _ (Moves.of_diag (upTo_goto _ _) rfl) rfl rfl⟩
  · exact ⟨_, rfl, hfin⟩
  · unfold writeOwns at hown
    split at hown <;> simp_all

/-- At a position of a read the engine goes on to another, PHASE kept, or finishes with FAIL or STALL, or has ended the
transaction, the byte it writes of caller memory provided (42_buffer_master R162; 60_exceptions R214, 40_bit_master R116). -/
theorem leads_readStep {P : State → Prop} {addr : BitVec 7} {n : Nat} {ret : State → State} {s : State}
    (hown : readOwns n s.cur = true)
    (hmem : s.cur.pos = .memWrite → s.mayWrite (bufAddr s.cfg.addrW s.cur.rxa s.cur.work.idx.toNat) = true)
    (hin : ∀ t, Moves s t → readOwns n t.cur = true → t.cur.work.phase = s.cur.work.phase → P t)
    (hfail : P (s.finish resultFail)) (hstall : P (s.finish resultStall)) (hret : ∀ u, Performed s u → P (ret u)) :
    Leads P (readStep addr n ret s) := by
  unfold readStep
  split
  · rename_i k hp
    simp only [readOwns, hp, decide_eq_true_eq] at hown
    refine leads_lineStep (code := startCode) hown (fun u hk' h _ => ?_) fun u h _ => ?_
    · exact hin _ (h.moves (silent_goto _) rfl) (by simpa [readOwns] using hk') h.phase
    · exact hin _ (h.moves (silent_callSendByte _ _) rfl) rfl h.phase
  · rename_i p hp
    simp only [readOwns, hp] at hown
    refine leads_sendByteStep hp hown (fun t p' hm hpos hsend _ hphase => ?_) fun u h => ?_
    · exact hin _ hm (by simpa [readOwns, hpos] using hsend) hphase
    · obtain ⟨ho, hready, hphase⟩ := afterAddress_lands (own := readOwns n) (u := u)
        (go := fun t => nextReceived n (t.setWork fun w => { w with idx := 0 })) rfl (nextReceived_lands n _)
      exact hin _ (h.moves (silent_afterAddress ((silent_nextReceived n).comp fun v => upTo_setWork v _)) hready) ho
        (hphase.trans h.phase)
  · rename_i p hp
    simp only [readOwns, hp, Bool.and_eq_true, decide_eq_true_eq] at hown
    obtain ⟨hrecv, hidx⟩ := hown
    refine leads_receiveByteStep hp hrecv (fun t p' hm hpos hrecv hi hphase => ?_) (fun t hm hpos hphase => ?_) fun u h => ?_
    · exact hin _ hm (by simp [readOwns, hpos, hrecv, hi, hidx]) hphase
    · exact hin _ hm (by simp [readOwns, hpos]) hphase
    · exact hin _ (h.moves (silent_goto _) rfl) (by simpa [readOwns, h.idx] using hidx) h.phase
  · rename_i hp
    obtain ⟨ho, hready, hphase⟩ := nextReceived_lands n
      ((({ s with mem := memPut (bufAddr s.cfg.addrW s.cur.rxa s.cur.work.idx.toNat) s.cur.work.shift s.mem }).log
        (.mw (bufAddr s.cfg.addrW s.cur.rxa s.cur.work.idx.toNat) s.cur.work.shift)).setWork
          fun w => { w with idx := w.idx + 1 })
    refine leads_memWrite (hmem hp) (hin _ ?_ ho hphase)
    exact Moves.of_event ((silent_nextReceived n _).trans (upTo_setWork _ _))
      (logsOne_log (.mw _ s.cur.work.shift) { s with mem := memPut _ s.cur.work.shift s.mem }) rfl (fun _ => hready)
      (fun l v h => by cases h)
  · rename_i k hp
    simp only [readOwns, hp, decide_eq_true_eq] at hown
    refine leads_lineStep (code := stopCode) hown (fun u hk' h _ => ?_) fun u h _ => hret u h
    exact hin _ (h.moves (silent_goto _) rfl) (by simpa [readOwns] using hk') h.phase
  · rename_i k hp
    simp only [readOwns, hp, decide_eq_true_eq] at hown
    refine leads_lineStep (code := stopCode) hown (fun u hk' h _ => ?_) fun u h _ => ?_
    · exact hin _ (h.moves (silent_goto _) rfl) (by simpa [readOwns] using hk') h.phase
    · exact hin _ (h.moves (silent_goto _) rfl) rfl h.phase
  · exact ⟨_, rfl, hin _ (Moves.of_diag (upTo_goto _ _) rfl) rfl rfl⟩
  · exact ⟨_, rfl, hfail⟩
  · exact ⟨_, rfl, hin _ (Moves.of_diag (upTo_goto _ _) rfl) rfl rfl⟩
  · exact ⟨_, rfl, hstall⟩
  · unfold readOwns at hown
    split at hown <;> simp_all

end Sys2Proof.Machine
end

section
/-! PROOF. Every command, at every position of its own: a next state at which its position is again its own, or its finish, or
a stuck access (10_state R27, R28; 60_exceptions R210; 70 R246). -/

namespace Sys2Proof.Machine

/-- Where a command goes from its entry before the first primitive: POS at its first procedure, and the working registers that
the pseudocode assigns first (10_state R27). -/
def beginCommand : Instr → State → State
  | .init => State.goto (.init 0)
  | .start => State.goto (.start 0)
  | .stop => State.goto (.stop .command 0)
  | .sendBit _ => State.goto (.sendBit 0)
  | .recvBit => State.goto (.recv .bitCommand (.raise 0))
  | .sendByte d => callSendByte .command d
  | .recvByte _ => callReceiveByte .byteCommand
  | .rdReg _ _ | .rdRegs _ _ => beginPhase 0
  | _ => State.goto (.start 0)

/-- At its entry a command performs the first primitive of its first procedure. -/
theorem exec_entry {i : Instr} {s : State} (hi : i.reserved = false) (he : s.cur.pos = .entry) :
    exec i s = exec i (beginCommand i s) := by
  cases i <;> simp only [Instr.reserved, reduceCtorEq] at hi <;>
    simp [beginCommand, exec, execInit, execStart, execStop, execSendBit, execRecvBit, execSendByte, execRecvByte, execWrite,
      execRead, execWrRegIdx, execWrReg, execWrRegs, execRdReg, execRdRegs, State.enter, he, callSendByte, callReceiveByte,
      beginPhase]

/-- Before the first primitive nothing is needed of the lines, the position is owned, and no byte is accessed. -/
theorem beginCommand_owned {i : Instr} (hi : i.reserved = false) (s : State) :
    owns i (beginCommand i s).cur = true ∧ readReady (beginCommand i s).cur = true ∧ (beginCommand i s).cur.pos ≠ .entry
      ∧ accessAddr i (beginCommand i s) = none := by
  cases i <;> simp_all [Instr.reserved, beginCommand, owns, readReady, accessAddr, callSendByte, callReceiveByte, beginPhase,
    sendOwns, recvOwns, recvBitOwns, writeCommandOwns, writeOwns, readOwns, registerReadOwns]

theorem silent_beginCommand (i : Instr) : Silent (beginCommand i) := by
  cases i with
  | sendByte d => exact silent_callSendByte _ d
  | recvByte a => exact silent_callReceiveByte _
  | rdReg a x | rdRegs a x => exact silent_beginPhase 0
  | _ => exact silent_goto _

/-- Each command made of one write transaction is that transaction and its finish (42_buffer_master R161,
43_register_gateway R191 to R193). -/
theorem exec_of_writePlan {i : Instr} {s : State} {n : Nat} {data : Nat → Payload}
    (h : writePlan i s.cur.len = some (n, data)) (he : s.cur.pos ≠ .entry) (hf : s.cur.pos ≠ .finish) :
    exec i s = writeStep (deviceAddr i) n data (State.goto .finish) s := by
  cases i <;> simp only [writePlan, reduceCtorEq, Option.some.injEq, Prod.mk.injEq] at h <;> obtain ⟨rfl, rfl⟩ := h <;>
    simp [exec, execWrite, execWrRegIdx, execWrReg, execWrRegs, enter_of_ne he, deviceAddr]

theorem owns_of_writePlan {i : Instr} {q : PortState} {n : Nat} {data : Nat → Payload}
    (h : writePlan i q.len = some (n, data)) : owns i q = writeCommandOwns n data q := by
  cases i <;> simp only [writePlan, reduceCtorEq, Option.some.injEq, Prod.mk.injEq] at h <;> obtain ⟨rfl, rfl⟩ := h <;> rfl

/-- From s to t the command has finished: BUSY is 0, RESULT is a word of its three fields, and nothing was logged
(00_scope R9, 30_encoding R94). -/
structure Finishes (s t : State) : Prop where
  busy : t.cur.busy = false
  result : ∃ status ack value, t.cur.result = resultWord status ack value
  history : t.cur.history = s.cur.history

theorem finishes_finish (status : BitVec 2) (ack : BitVec 1) (value : Byte) (s : State) :
    Finishes s (s.finish (resultWord status ack value)) := ⟨rfl, ⟨status, ack, value, rfl⟩, rfl⟩

/-- From s to t the command i has gone on to a position of its own, or has finished. -/
def Goes (i : Instr) (s t : State) : Prop := (Moves s t ∧ owns i t.cur = true) ∨ Finishes s t

theorem Moves.goes {i : Instr} {s t : State} (h : Moves s t) (ho : owns i t.cur = true) : Goes i s t := .inl ⟨h, ho⟩

/-- A command that ends in `finish` after its last line primitive. -/
theorem Performed.goes_finish {i : Instr} {s u : State} (h : Performed s u)
    (ho : owns i (u.goto .finish).cur = true) : Goes i s (u.goto .finish) :=
  (h.moves (silent_goto _) rfl).goes ho

theorem leads_finish {i : Instr} (status : BitVec 2) (ack : BitVec 1) (value : Byte) (s : State) :
    Leads (Goes i s) (.next (s.finish (resultWord status ack value))) :=
  ⟨_, rfl, .inr (finishes_finish status ack value s)⟩

theorem leads_stallDiagStep {i : Instr} {s : State} (ho : owns i (s.goto .finishStall).cur = true) :
    Leads (Goes i s) (stallDiagStep s) :=
  ⟨_, rfl, (Moves.of_diag (upTo_goto _ _) rfl).goes ho⟩

/-! The commands, past their entry. -/

/-- A command that is one straight line of pseudocode, at a primitive of it. -/
theorem leads_lineCommand {i : Instr} {code : List LineAct} {here : Nat → Pos} {k : Nat} {s : State} (hk : k < code.length)
    (hin : ∀ (u : State) j, j < code.length → owns i (u.goto (here j)).cur = true)
    (hready : ∀ (u : State) j, readReady (u.goto (here j)).cur = true)
    (hfin : ∀ u : State, owns i (u.goto .finish).cur = true) :
    Leads (Goes i s) (lineStep code here (State.goto .finish) k s) :=
  leads_lineStep hk (fun u hk' h _ => (h.moves (silent_goto _) (hready u _)).goes (hin u _ hk'))
    fun u h _ => h.goes_finish (hfin u)

theorem leads_execRecvBit {s : State} (he : s.cur.pos ≠ .entry) (ho : owns .recvBit s.cur = true) :
    Leads (Goes .recvBit s) (execRecvBit s) := by
  simp only [execRecvBit, enter_of_ne he]
  split
  · rename_i p hp
    refine leads_receiveBitStep hp (by simpa [owns, hp] using ho) (fun t p' hm hpos hb _ _ _ => ?_) (fun t hm hpos _ => ?_)
      fun u h _ => h.goes_finish rfl
    · exact hm.goes (by simpa [owns, hpos] using hb)
    · exact hm.goes (by simp [owns, hpos])
  · exact leads_stallDiagStep rfl
  · exact leads_finish _ _ _ s
  · exact leads_finish _ _ _ s
  · simp_all [owns]

theorem leads_execSendByte {d : Byte} {s : State} (he : s.cur.pos ≠ .entry) (ho : owns (.sendByte d) s.cur = true) :
    Leads (Goes (.sendByte d) s) (execSendByte d s) := by
  simp only [execSendByte, enter_of_ne he]
  split
  · rename_i p hp
    refine leads_sendByteStep hp (by simpa [owns, hp] using ho) (fun t p' hm hpos hsend _ _ => ?_)
      fun u h => h.goes_finish rfl
    exact hm.goes (by simpa [owns, hpos] using hsend)
  · exact leads_finish _ _ _ s
  · simp_all [owns]

theorem leads_execRecvByte {a : BitVec 1} {s : State} (he : s.cur.pos ≠ .entry) (ho : owns (.recvByte a) s.cur = true) :
    Leads (Goes (.recvByte a) s) (execRecvByte a s) := by
  simp only [execRecvByte, enter_of_ne he]
  split
  · rename_i p hp
    refine leads_receiveByteStep hp (by simpa [owns, hp] using ho) (fun t p' hm hpos hrecv _ _ => ?_)
      (fun t hm hpos _ => ?_) fun u h => h.goes_finish rfl
    · exact hm.goes (by simpa [owns, hpos] using hrecv)
    · exact hm.goes (by simp [owns, hpos])
  · exact leads_stallDiagStep rfl
  · exact leads_finish _ _ _ s
  · exact leads_finish _ _ _ s
  · simp_all [owns]

/-- At its finish a command that is one write transaction ends with OK. -/
theorem exec_finish_of_writePlan {i : Instr} {s : State} {n : Nat} {data : Nat → Payload}
    (h : writePlan i s.cur.len = some (n, data)) (hf : s.cur.pos = .finish) : exec i s = .next (s.finish resultOk) := by
  cases i <;> simp only [writePlan, reduceCtorEq] at h <;>
    simp [exec, execWrite, execWrRegIdx, execWrReg, execWrRegs, State.enter, hf]

theorem leads_exec_of_writePlan {i : Instr} {s : State} {n : Nat} {data : Nat → Payload}
    (hw : writePlan i s.cur.len = some (n, data)) (he : s.cur.pos ≠ .entry) (ho : owns i s.cur = true)
    (ha : accessProvided i s = true) : Leads (Goes i s) (exec i s) := by
  by_cases hf : s.cur.pos = .finish
  · rw [exec_finish_of_writePlan hw hf]
    exact leads_finish _ _ _ s
  have hown {t : State} (hlen : t.cur.len = s.cur.len) (h : writeCommandOwns n data t.cur = true) : owns i t.cur = true :=
    (owns_of_writePlan (hlen ▸ hw)).trans h
  rw [exec_of_writePlan hw he hf]
  rw [owns_of_writePlan hw, writeCommandOwns] at ho
  refine leads_writeStep (by simpa [he, hf] using ho) (fun off hp hoff => ?_) (fun t hm h _ => ?_)
    (.inr (finishes_finish _ _ _ s)) fun u h => ?_
  · simpa [accessProvided, accessAddr, hp, hw, hoff] using ha
  · exact hm.goes (hown hm.len (by simp [writeCommandOwns, h]))
  · have hm := h.moves (silent_goto .finish) rfl
    exact hm.goes (hown hm.len rfl)

theorem leads_execRead {addr : BitVec 7} {s : State} (he : s.cur.pos ≠ .entry) (ho : owns (.read addr) s.cur = true)
    (ha : accessProvided (.read addr) s = true) : Leads (Goes (.read addr) s) (execRead addr s) := by
  simp only [execRead, enter_of_ne he]
  split
  · exact leads_finish _ _ _ s
  · rename_i hf
    refine leads_readStep (by simpa [owns, he, show s.cur.pos ≠ .finish from hf] using ho) (fun hp => ?_) (fun t hm h _ => ?_)
      (.inr (finishes_finish _ _ _ s)) (.inr (finishes_finish _ _ _ s)) fun u h => h.goes_finish rfl
    · simpa [accessProvided, accessAddr, hp] using ha
    · exact hm.goes (by simp [owns, hm.len, h])

theorem registerReadOwns_index {index : Byte} {n : Nat} {q : PortState} (h : q.work.phase = 0) :
    registerReadOwns index n q = (q.pos = .entry || writeOwns 1 (payloadIndex index) q) := by
  rw [registerReadOwns, if_pos h]

theorem registerReadOwns_read {index : Byte} {n : Nat} {q : PortState} (h : q.work.phase ≠ 0) :
    registerReadOwns index n q = (q.pos = .entry || (q.pos = .finish || readOwns n q)) := by
  rw [registerReadOwns, if_neg h]

/-- A composite read at a position of its own: the index write in phase 0, the read in phase 1 (43_register_gateway R194,
R195). -/
theorem leads_registerReadStep {i : Instr} {addr : BitVec 7} {index : Byte} {n : Nat} {s : State}
    (hi : ∀ t : State, t.cur.len = s.cur.len → owns i t.cur = registerReadOwns index n t.cur)
    (he : s.cur.pos ≠ .entry) (hf : s.cur.pos ≠ .finish) (ho : owns i s.cur = true) (ha : accessProvided i s = true) :
    Leads (Goes i s) (registerReadStep addr index n s) := by
  rw [hi s rfl] at ho
  unfold registerReadStep
  split
  · rename_i hph
    rw [registerReadOwns_index hph] at ho
    refine leads_writeStep (by simpa [he] using ho) (fun off _ h => by simp [payloadIndex] at h) (fun t hm h hp => ?_)
      (.inr (finishes_finish _ _ _ s)) fun u h => ?_
    · exact hm.goes (by simp [hi t hm.len, registerReadOwns_index (hp.trans hph), h])
    · have hm := h.moves (silent_beginPhase 1) rfl
      exact hm.goes ((hi _ hm.len).trans rfl)
  · rename_i hph
    rw [registerReadOwns_read hph] at ho
    refine leads_readStep (by simpa [he, hf] using ho) (fun hp => ?_) (fun t hm h hp => ?_)
      (.inr (finishes_finish _ _ _ s)) (.inr (finishes_finish _ _ _ s)) fun u h => ?_
    · simpa [accessProvided, accessAddr, hp] using ha
    · exact hm.goes (by simp [hi t hm.len, registerReadOwns_read (hp ▸ hph), h])
    · have hm := h.moves (silent_goto .finish) rfl
      exact hm.goes ((hi _ hm.len).trans (registerReadOwns_read (h.phase ▸ hph)))

theorem leads_execRdReg {addr : BitVec 7} {index : Byte} {s : State} (he : s.cur.pos ≠ .entry)
    (ho : owns (.rdReg addr index) s.cur = true) (ha : accessProvided (.rdReg addr index) s = true) :
    Leads (Goes (.rdReg addr index) s) (execRdReg addr index s) := by
  simp only [execRdReg, enter_of_ne he]
  split
  · exact leads_finish _ _ _ s
  · exact leads_registerReadStep (fun t _ => rfl) he ‹_› ho ha

theorem leads_execRdRegs {addr : BitVec 7} {index : Byte} {s : State} (he : s.cur.pos ≠ .entry)
    (ho : owns (.rdRegs addr index) s.cur = true) (ha : accessProvided (.rdRegs addr index) s = true) :
    Leads (Goes (.rdRegs addr index) s) (execRdRegs addr index s) := by
  simp only [execRdRegs, enter_of_ne he]
  split
  · exact leads_finish _ _ _ s
  · exact leads_registerReadStep (fun t h => by rw [← h]; rfl) he ‹_› ho ha

/-- A reserved command finishes at its entry, its only position (60_exceptions R215). -/
theorem exec_reserved {i : Instr} {s : State} (hi : i.reserved = true) (he : s.cur.pos = .entry) :
    exec i s = .next (s.finish resultIllegal) := by
  have h : exec i s = illegalStep s := by
    cases i with
    | init | start | stop | sendBit _ | recvBit | sendByte _ | recvByte _ | write _ | read _ | wrRegIdx _ _ | wrReg _ _ _
    | wrRegs _ _ | rdReg _ _ | rdRegs _ _ => cases hi
    | _ => rfl
  rw [h, illegalStep, he]

theorem owns_reserved {i : Instr} {q : PortState} (hi : i.reserved = true) (ho : owns i q = true) : q.pos = .entry := by
  cases i <;> simp_all [Instr.reserved, owns]

/-- At a position past its entry every command goes on or finishes, its memory access provided. -/
theorem leads_exec {i : Instr} {s : State} (hi : i.reserved = false) (he : s.cur.pos ≠ .entry) (ho : owns i s.cur = true)
    (ha : accessProvided i s = true) : Leads (Goes i s) (exec i s) := by
  cases i with
  | init | start | stop | sendBit _ =>
    simp only [exec, execInit, execStart, execStop, execSendBit, startStep, stopStep, enter_of_ne he]
    split
    · exact leads_lineCommand (by simp_all [owns]) (fun u j hj => by simpa [owns] using hj) (fun _ _ => rfl) fun _ => rfl
    · exact leads_finish _ _ _ s
    · simp_all [owns]
  | recvBit => exact leads_execRecvBit he ho
  | sendByte _ => exact leads_execSendByte he ho
  | recvByte _ => exact leads_execRecvByte he ho
  | write _ | wrRegIdx _ _ | wrReg _ _ _ | wrRegs _ _ => exact leads_exec_of_writePlan rfl he ho ha
  | read _ => exact leads_execRead he ho ha
  | rdReg _ _ => exact leads_execRdReg he ho ha
  | rdRegs _ _ => exact leads_execRdRegs he ho ha
  | _ => cases hi

/-- At its entry a command goes on, since its first primitive does. -/
theorem Goes.of_begin {i : Instr} {s t : State} (hi : i.reserved = false) (h : Goes i (beginCommand i s) t) : Goes i s t := by
  obtain ⟨-, hready, -, -⟩ := beginCommand_owned hi s
  have hb := silent_beginCommand i s
  unfold UpTo at hb
  rw [hb] at h
  obtain ⟨hm, ho⟩ | hfin := h
  · exact .inl ⟨⟨hm.len, hm.result, fun _ => hm.ready (hb ▸ hready), fun l v _ => hm.reads l v (hb ▸ hready)⟩, ho⟩
  · exact .inr ⟨hfin.busy, hfin.result, hfin.history⟩

/-- Every command, at every position of its own, goes on or finishes, its memory access provided. -/
theorem exec_goes {i : Instr} {s : State} (ho : owns i s.cur = true) (ha : accessProvided i s = true) :
    Leads (Goes i s) (exec i s) := by
  cases hi : i.reserved with
  | true => exact exec_reserved hi (owns_reserved hi ho) ▸ leads_finish _ _ _ s
  | false =>
    by_cases he : s.cur.pos = .entry
    · obtain ⟨hown, -, hpos, hacc⟩ := beginCommand_owned hi s
      obtain ⟨t, ht, hgoes⟩ := leads_exec hi hpos hown (by simp [accessProvided, hacc])
      exact ⟨t, (exec_entry hi he).trans ht, hgoes.of_begin hi⟩
    · exact leads_exec hi he ho ha

/-- Settles O24: at a position of its own a command goes on or finishes (exec_goes). -/
theorem everyPositionAnswersNext : Obligations.EveryPositionAnswersNext := by
  intro i s ho ha
  obtain ⟨t, ht, -⟩ := exec_goes ho ha
  exact ⟨t, ht⟩

end Sys2Proof.Machine
end

section
/-! PROOF. The invariant: every agent's move keeps it, and with it no step loses its position and every line is read released
(10_state R23, R27, R28, R30; 20_memory R52). -/

namespace Sys2Proof.Machine

/-! Where a command is stuck. -/

/-- Only a read has a MemWrite (42_buffer_master R162). -/
theorem exec_of_memWrite {i : Instr} {s : State} (ho : owns i s.cur = true) (hp : s.cur.pos = .memWrite) :
    ∃ addr n ret, exec i s = readStep addr n ret s := by
  have registerRead {addr : BitVec 7} {index : Byte} {n : Nat} (ho : registerReadOwns index n s.cur = true) :
      registerReadStep addr index n s = readStep addr n (State.goto .finish) s := by
    refine if_neg fun hph => ?_
    simp [registerReadOwns_index hph, writeOwns, hp] at ho
  cases i with
  | read addr => exact ⟨addr, _, _, by simp [exec, execRead, State.enter, hp]; rfl⟩
  | rdReg addr index => exact ⟨addr, _, _, by simp [exec, execRdReg, State.enter, hp, registerRead ho]; rfl⟩
  | rdRegs addr index => exact ⟨addr, _, _, by simp [exec, execRdRegs, State.enter, hp, registerRead ho]; rfl⟩
  | _ => simp [owns, hp, writeCommandOwns, writeOwns] at ho

/-- At the MemRead or MemWrite of a byte the caller has not provided a command is stuck (70 R246). -/
theorem exec_stuck {i : Instr} {s : State} {a : Nat} (ho : owns i s.cur = true) (haddr : accessAddr i s = some a)
    (ha : accessProvided i s = false) : exec i s = .fault (.bufferNotProvided a) := by
  simp only [accessProvided, haddr] at ha
  unfold accessAddr at haddr
  split at haddr
  · rename_i hp
    split at haddr
    · rename_i n data hw
      split at haddr
      · rename_i off hoff
        cases haddr
        rw [exec_of_writePlan hw (by simp [hp]) (by simp [hp])]
        simp only [writeStep, hp, hoff, memReadStep]
        exact memRead_stuck (by simpa [hp] using ha)
      · cases haddr
    · cases haddr
  · rename_i hp
    cases haddr
    obtain ⟨addr, n, ret, hx⟩ := exec_of_memWrite ho hp
    rw [hx]
    simp only [readStep, hp, memWriteStep]
    exact memWrite_stuck (by simpa [hp] using ha)
  · cases haddr

/-- What a next state of a command at a position of its own is. -/
theorem exec_next_goes {i : Instr} {s t : State} (ho : owns i s.cur = true) (h : exec i s = .next t) : Goes i s t := by
  cases ha : accessProvided i s with
  | true =>
    obtain ⟨u, hu, hgoes⟩ := exec_goes ho ha
    rw [h] at hu
    cases hu
    exact hgoes
  | false =>
    cases haddr : accessAddr i s with
    | none => simp [accessProvided, haddr] at ha
    | some a =>
      rw [exec_stuck ho haddr ha] at h
      cases h

/-! The invariant, taken apart. -/

theorem portInv_iff {w : Nat} {q : PortState} : portInv w q = true ↔ q.result.extractLsb' 11 21 = 0 ∧ q.txa < 2 ^ w
    ∧ q.rxa < 2 ^ w ∧ (q.busy = true → owns (decode q.cmd) q = true ∧ readReady q = true) := by
  cases hb : q.busy <;> simp [portInv, hb, and_assoc]

/-- The invariant's parts, by name. -/
structure Invariant (s : State) : Prop where
  memory : Memory.wf s.mem = true
  range : ∀ c ∈ s.mem, c.1 < 2 ^ s.cfg.addrW
  rising : kvRising none s.others = true
  once : kvFind s.sel s.others = none
  current : portInv s.cfg.addrW s.cur = true
  rest : ∀ e ∈ s.others, portInv s.cfg.addrW e.2 = true

theorem inv_iff {s : State} : inv s = true ↔ Invariant s := by
  simp only [inv, Bool.and_eq_true, List.all_eq_true, decide_eq_true_eq, Option.isNone_iff_eq_none]
  exact ⟨fun ⟨⟨⟨⟨⟨hm, hr⟩, ho⟩, hs⟩, hc⟩, he⟩ => ⟨hm, hr, ho, hs, hc, he⟩,
    fun h => ⟨⟨⟨⟨⟨h.memory, h.range⟩, h.rising⟩, h.once⟩, h.current⟩, h.rest⟩⟩

theorem portInv_reset (w p : Nat) : portInv w (PortState.reset p) = true := by
  simp [portInv_iff, PortState.reset]

theorem portInv_restart (w p : Nat) (q : PortState) : portInv w (q.restart p) = true := by
  simp [portInv_iff, PortState.restart, PortState.reset]

/-- Noting a disturbed send buffer touches nothing the invariant speaks of. -/
theorem portInv_disturb (w v a : Nat) (q : PortState) : portInv w (q.disturb v a) = portInv w q := by
  unfold PortState.disturb
  split <;> rfl

/-- The invariant depends on the parameters, the ports and caller memory only. -/
theorem Invariant.congr {s t : State} (h : Invariant s) (hcfg : t.cfg = s.cfg) (hsel : t.sel = s.sel) (hcur : t.cur = s.cur)
    (hothers : t.others = s.others) (hmem : t.mem = s.mem) : Invariant t := by
  rw [← inv_iff] at h ⊢
  simpa only [inv, hcfg, hsel, hcur, hothers, hmem] using h

theorem Invariant.port {s : State} (h : Invariant s) (p : Nat) : portInv s.cfg.addrW (s.port p) = true := by
  unfold State.port
  split
  · exact h.current
  · cases hf : kvFind p s.others with
    | none =>
      rw [Option.getD_none]
      exact portInv_reset _ p
    | some q =>
      rw [Option.getD_some]
      exact h.rest (p, q) (kvFind_mem hf)

theorem Invariant.focus {s : State} (h : Invariant s) (p : Nat) : Invariant (s.focus p) := by
  unfold State.focus
  split
  · exact h
  · have hput := kvRising_kvPut s.sel s.cur h.rising
    refine ⟨h.memory, h.range, kvRising_kvErase hput, kvFind_kvErase_same hput, h.port p, fun e he => ?_⟩
    rcases mem_kvPut (mem_kvErase he) with rfl | he
    · exact h.current
    · exact h.rest e he

/-- Caller memory stays within its address space under a write to it (20_memory R52). -/
theorem memPut_range {w a : Nat} {v : Byte} {m : List Host.Cell} (ha : a < 2 ^ w) (h : ∀ c ∈ m, c.1 < 2 ^ w) :
    ∀ c ∈ memPut a v m, c.1 < 2 ^ w := by
  intro c hc
  rcases mem_kvPut hc with rfl | hc
  · exact ha
  · exact h c hc

theorem resultWord_high (status : BitVec 2) (ack : BitVec 1) (value : Byte) :
    (resultWord status ack value).extractLsb' 11 21 = 0 := by
  ext i hi
  have h2 : ¬ 11 + i < 2 := by omega
  have h3 : ¬ 11 + i < 3 := by omega
  simp [resultWord, h2, h3, BitVec.getLsbD_of_ge value (11 + i - 3) (by omega),
    BitVec.getLsbD_of_ge ack (11 + i - 2) (by omega), BitVec.getLsbD_of_ge status (11 + i) (by omega)]

/-! An engine step. -/

theorem UpTo.mem {t u : State} (h : UpTo t u) : t.mem = u.mem := by
  unfold UpTo at h
  rw [h]

/-- An engine step leaves caller memory, or writes one byte of it within the address space (20_memory R52). -/
theorem Primitive.mem {s t : State} (h : Primitive s t) :
    t.mem = s.mem ∨ ∃ a v, a < 2 ^ s.cfg.addrW ∧ t.mem = memPut a v s.mem := by
  cases h with
  | line a h => exact .inl (h.mem.trans (by rw [perform_eq]))
  | read l h => exact .inl (h.mem.trans (State.getLine_mem l s))
  | memRead a v n h => exact .inl h.mem
  | memWrite _ h => exact .inr ⟨_, _, Nat.mod_lt _ (Nat.two_pow_pos _), h.mem⟩
  | diag e h => exact .inl h.mem
  | finish r _ h => exact .inl (h ▸ rfl)

theorem Invariant.exec {s t : State} (h : Invariant s) (hb : s.cur.busy = true)
    (hx : Machine.exec (decode s.cur.cmd) s = .next t) : Invariant t := by
  obtain ⟨hcmd, hlen, htxa, hrxa, -, hcfg, hsel, hothers, -⟩ := (exec_primitive hx).sameAgents
  obtain ⟨hres, htx, hrx, hpos⟩ := portInv_iff.1 h.current
  obtain ⟨ho, hr⟩ := hpos hb
  have hcur : portInv s.cfg.addrW t.cur = true := by
    rw [portInv_iff, hcmd, htxa, hrxa]
    obtain ⟨hm, ho'⟩ | hf := exec_next_goes ho hx
    · exact ⟨hm.result ▸ hres, htx, hrx, fun _ => ⟨ho', hm.ready hr⟩⟩
    · obtain ⟨status, ack, value, hv⟩ := hf.result
      exact ⟨hv ▸ resultWord_high status ack value, htx, hrx, fun hb' => by rw [hf.busy] at hb'; cases hb'⟩
  have hmem : Memory.wf t.mem = true ∧ ∀ c ∈ t.mem, c.1 < 2 ^ s.cfg.addrW := by
    obtain hm | ⟨a, v, ha, hm⟩ := (exec_primitive hx).mem
    · exact hm ▸ ⟨h.memory, h.range⟩
    · exact hm ▸ ⟨memory_wf_memPut a v h.memory, memPut_range ha h.range⟩
  exact ⟨hmem.1, hcfg ▸ hmem.2, hothers ▸ h.rising, by rw [hsel, hothers, h.once], hcfg ▸ hcur,
    by rw [hcfg, hothers]; exact h.rest⟩

/-! An act of the host. -/

/-- What one act of the host can do from s to t (20_memory R64, 70 R240). -/
inductive HostMove (a : HostAct) (s t : State) : Prop where
  | accept (p : Nat) (b : Bundle) (hidle : (s.port p).busy = false)
      (h : t = (s.focus p).accept { b with txa := b.txa % 2 ^ s.cfg.addrW, rxa := b.rxa % 2 ^ s.cfg.addrW })
  | read (rs : List Reply) (n : Nat) (h : t = { s with replies := rs, draws := n })
  | provide (x : Nat) (v : Byte) (hx : x < 2 ^ s.cfg.addrW)
      (h : t = { s with
        mem := memPut x v s.mem
        cur := s.cur.disturb s.cfg.addrW x
        others := s.others.map fun e => (e.1, e.2.disturb s.cfg.addrW x) })
  | provideRx (rs : List Region) (h : t = { s with writable := rs })
  | reset (ha : a = .reset)
      (h : t = { s with cur := s.cur.restart s.sel, others := s.others.map fun e => (e.1, e.2.restart e.1) })

theorem hostAct_move {a : HostAct} {s t : State} (h : hostAct a s = .next t) : HostMove a s t := by
  cases a with
  | issue p b =>
    simp only [hostAct, hostIssue] at h
    split at h
    · split at h <;> cases h
      exact .accept p b (by simp_all) rfl
    · cases h
  | readResult p =>
    simp only [hostAct, hostReadResult] at h
    split at h
    · split at h <;> cases h
      exact .read _ s.draws rfl
    · cases h
  | readBusy p =>
    simp only [hostAct, hostReadBusy] at h
    split at h <;> cases h
    exact .read _ s.draws rfl
  | provide x v =>
    simp only [hostAct, hostProvide] at h
    split at h <;> cases h
    exact .provide x v ‹_› rfl
  | provideRx rs =>
    cases h
    exact .provideRx rs rfl
  | readByte x =>
    simp only [hostAct, hostReadByte] at h
    obtain ⟨n, hn⟩ := looked_eq x (s.receiving x) s
    rw [hn] at h
    split at h
    · split at h <;> cases h
      exact .read _ n rfl
    · cases h
  | lineWrite loc v =>
    simp only [hostAct, hostLineWrite] at h
    split at h
    · cases h
    · split at h <;> cases h
  | reset =>
    cases h
    exact .reset rfl rfl

/-- Changing every port by what keeps `portInv`, its key kept, keeps the invariant. -/
theorem Invariant.map {s t : State} (h : Invariant s) (f : Nat → PortState → PortState)
    (hf : ∀ p q, portInv s.cfg.addrW q = true → portInv s.cfg.addrW (f p q) = true) (hcfg : t.cfg = s.cfg)
    (hsel : t.sel = s.sel) (hcur : t.cur = f s.sel s.cur) (hothers : t.others = s.others.map fun e => (e.1, f e.1 e.2))
    (hwf : Memory.wf t.mem = true) (hrange : ∀ c ∈ t.mem, c.1 < 2 ^ s.cfg.addrW) : Invariant t where
  memory := hwf
  range := hcfg ▸ hrange
  rising := by rw [hothers, kvRising_map]; exact h.rising
  once := by rw [hothers, hsel, kvFind_map, h.once]; rfl
  current := by rw [hcfg, hcur]; exact hf _ _ h.current
  rest e he := by
    rw [hothers, List.mem_map] at he
    obtain ⟨e', he', rfl⟩ := he
    rw [hcfg]
    exact hf _ _ (h.rest e' he')

/-- The entry is a position of every command (10_state R27). -/
theorem owns_entry (i : Instr) {q : PortState} (h : q.pos = .entry) : owns i q = true := by
  cases i <;> simp [owns, writeCommandOwns, registerReadOwns, h]

theorem portInv_accept {s : State} {p : Nat} (h : Invariant s) (b : Bundle) : portInv s.cfg.addrW
    ((s.focus p).accept { b with txa := b.txa % 2 ^ s.cfg.addrW, rxa := b.rxa % 2 ^ s.cfg.addrW }).cur = true := by
  obtain ⟨hres, -, -, -⟩ := portInv_iff.1 (h.focus p).current
  have hpow := Nat.two_pow_pos s.cfg.addrW
  exact portInv_iff.2 ⟨hres, Nat.mod_lt _ hpow, Nat.mod_lt _ hpow, fun _ => ⟨owns_entry _ rfl, rfl⟩⟩

theorem Invariant.hostAct {a : HostAct} {s t : State} (h : Invariant s) (hx : Machine.hostAct a s = .next t) :
    Invariant t := by
  cases hostAct_move hx with
  | accept p b _ ht =>
    have hf := h.focus p
    obtain ⟨hcfg, hmem, -⟩ := focus_rest p s
    subst ht
    exact ⟨hf.memory, hf.range, hf.rising, hf.once, by rw [State.accept_cfg, hcfg]; exact portInv_accept h b, hf.rest⟩
  | read rs n ht => exact h.congr (by rw [ht]) (by rw [ht]) (by rw [ht]) (by rw [ht]) (by rw [ht])
  | provide x v hlt ht =>
    subst ht
    exact h.map (fun _ q => q.disturb s.cfg.addrW x) (fun p q hq => (portInv_disturb _ _ _ q).trans hq) rfl rfl rfl rfl
      (memory_wf_memPut x v h.memory) (memPut_range hlt h.range)
  | provideRx rs ht => exact h.congr (by rw [ht]) (by rw [ht]) (by rw [ht]) (by rw [ht]) (by rw [ht])
  | reset _ ht =>
    subst ht
    exact h.map PortState.restart (fun p q _ => portInv_restart _ p q) rfl rfl rfl rfl h.memory h.range

/-! A step of the machine. -/

/-- What a step of the machine is, the agent whose move it is given (00_scope R6; log 3). -/
inductive StepIs (s : State) (o : Out) : Prop where
  | waits (hm : s.mover = none) (h : o = .next s)
  | exec (p : Nat) (hm : s.mover = some (.engine p)) (hb : (s.picked.focus p).cur.busy = true)
      (h : o = exec (decode (s.picked.focus p).cur.cmd) (s.picked.focus p))
  | idles (p : Nat) (hm : s.mover = some (.engine p)) (h : o = .next (s.picked.focus p))
  | acts (a : HostAct) (t : List HostAct) (hm : s.mover = some .host) (hi : s.inbox = a :: t)
      (h : o = hostAct a { s.picked with inbox := t })
  | rests (hm : s.mover = some .host) (h : o = .next s.picked)

theorem picked_inbox (s : State) : s.picked.inbox = s.inbox := by rw [picked_eq]

theorem step_is (s : State) : StepIs s (step s) := by
  unfold step
  split
  · exact .waits ‹_› rfl
  · rename_i m hm
    cases m with
    | engine p =>
      simp only [moveStep, engineStep]
      split
      · exact .exec p hm ‹_› rfl
      · exact .idles p hm rfl
    | host =>
      simp only [moveStep, hostStep]
      split
      · exact .rests hm rfl
      · rename_i a t hi
        exact .acts a t hm (picked_inbox s ▸ hi) rfl

theorem Invariant.picked {s : State} (h : Invariant s) : Invariant s.picked := by
  have hp := picked_eq s
  exact h.congr (by rw [hp]) (by rw [hp]) (by rw [hp]) (by rw [hp]) (by rw [hp])

theorem Invariant.step {s t : State} (h : Invariant s) (hx : Machine.step s = .next t) : Invariant t := by
  cases hx ▸ step_is s with
  | waits _ ht => cases ht; exact h
  | exec p _ hb ht => exact (h.picked.focus p).exec hb ht.symm
  | idles p _ ht => cases ht; exact h.picked.focus p
  | acts a rest _ _ ht => exact (h.picked.congr (t := { s.picked with inbox := rest }) rfl rfl rfl rfl rfl).hostAct ht.symm
  | rests _ ht => cases ht; exact h.picked

/-- Settles O54: whichever agent moves, it keeps the invariant (Invariant.step). -/
theorem everyStepKeepsTheInvariant : Obligations.EveryStepKeepsTheInvariant := by
  intro s t h hx
  exact inv_iff.2 ((inv_iff.1 h).step hx)

/-- Settles O53: nothing is in flight at reset, and no byte of caller memory holds a value. -/
theorem resetMeetsTheInvariant : Obligations.ResetMeetsTheInvariant :=
  inv_iff.2 ⟨rfl, fun _ hc => absurd hc List.not_mem_nil, rfl, rfl, portInv_reset _ 0, fun _ he => absurd he List.not_mem_nil⟩

/-- A command at a position of its own does not lose it. -/
theorem exec_ne_lostPosition {i : Instr} {s : State} (ho : owns i s.cur = true) : exec i s ≠ .fault .lostPosition := by
  cases ha : accessProvided i s with
  | true =>
    obtain ⟨t, ht, -⟩ := exec_goes ho ha
    simp [ht]
  | false =>
    obtain ⟨a, haddr⟩ : ∃ a, accessAddr i s = some a := by
      refine Option.ne_none_iff_exists'.1 fun h => ?_
      simp [accessProvided, h] at ha
    simp [exec_stuck ho haddr ha]

theorem hostAct_ne_lostPosition (a : HostAct) (s : State) : hostAct a s ≠ .fault .lostPosition := by
  cases a <;> simp only [hostAct, hostIssue, hostReadResult, hostReadBusy, hostProvide, hostProvideRx, hostReadByte,
    hostLineWrite, hostReset] <;> (repeat' split) <;> simp

/-- Settles O55: the command in flight is at a position of its own (exec_ne_lostPosition); the host's acts have faults of their
own. -/
theorem noStepLosesItsPosition : Obligations.NoStepLosesItsPosition := by
  intro s h
  have hi := inv_iff.1 h
  cases step_is s with
  | waits _ ht => simp [ht]
  | exec p _ hb ht =>
    obtain ⟨-, -, -, hpos⟩ := portInv_iff.1 (hi.picked.focus p).current
    rw [ht]
    exact exec_ne_lostPosition (hpos hb).1
  | idles p _ ht => simp [ht]
  | acts a rest _ _ ht =>
    rw [ht]
    exact hostAct_ne_lostPosition a _
  | rests _ ht => simp [ht]

/-- Settles O56: a command that goes on reads only a line it drives at 1 (Moves.reads), and one that finishes reads none. -/
theorem readsAreMadeWithTheLineReleased : Obligations.ReadsAreMadeWithTheLineReleased := by
  intro s l v t h hb hx hlog
  obtain ⟨-, -, -, hpos⟩ := portInv_iff.1 (inv_iff.1 h).current
  obtain ⟨ho, hready⟩ := hpos hb
  obtain ⟨hm, -⟩ | hf := exec_next_goes ho hx
  · exact hm.reads l v hready hlog
  · simp [hf.history] at hlog

end Sys2Proof.Machine
end

section
/-! PROOF. What a step runs, what the caller's acts answer, the ports at reset, and when RESULT changes (10_state R26, R27,
R30, R31, R34, R35; 20_memory R62, R64; 30_encoding R92). -/

namespace Sys2Proof.Machine

/-- Settles O7: the two moves of moveStep, the act taken off the inbox. -/
theorem stepRunsTheDecodedCommandOrTheHostsAct : Obligations.StepRunsTheDecodedCommandOrTheHostsAct := by
  refine ⟨fun s p i hm hb hi _ => ?_, fun s a t hm hi => ?_⟩
  · simp [step, hm, moveStep, engineStep, hb, hi]
  · simp [step, hm, moveStep, hostStep, picked_inbox, hi]

/-- A port in focus is the current one. -/
theorem port_sel {s : State} {p : Nat} (h : s.sel = p) : s.port p = s.cur := by
  simp [State.port, h]

/-- A change of the port in focus leaves every other port as it is. -/
theorem port_of_ne_sel {s t : State} {p : Nat} (hsel : t.sel = s.sel) (hothers : t.others = s.others) (hp : p ≠ s.sel) :
    t.port p = s.port p := by
  simp [State.port, hsel, hothers, hp]

/-- The port a command is accepted on, brought into focus. -/
theorem focus_accept_port_same (p : Nat) (b : Bundle) (s : State) :
    ((s.focus p).accept b).port p = ((s.focus p).accept b).cur := port_sel (focus_sel p s)

theorem focus_accept_port_other {p q : Nat} (h : q ≠ p) (b : Bundle) (s : State) :
    ((s.focus p).accept b).port q = s.port q := by
  have hfocus : ((s.focus p).accept b).port q = (s.focus p).port q :=
    port_of_ne_sel rfl rfl (by rwa [focus_sel])
  rw [hfocus, focus_port]

/-- Settles O10: the port is brought into focus, which changes no port, and the command accepted on it. -/
theorem issueIsAcceptedWhileNotBusy : Obligations.IssueIsAcceptedWhileNotBusy := by
  intro s p b hp hb
  refine ⟨_, by simp only [hostAct, hostIssue, hp, hb, if_true]; rfl, ?_⟩
  rw [focus_accept_port_same]
  obtain ⟨-, hmem, -⟩ := focus_rest p s
  refine ⟨rfl, rfl, rfl, rfl, rfl, rfl, ?_, ?_, ?_, ?_, fun q hq => focus_accept_port_other hq _ s, hmem⟩ <;>
    simp [focus_cur]

/-- Settles O14: no port has been touched at reset. -/
theorem resetStateOfEveryPort : Obligations.ResetStateOfEveryPort := by
  intro p
  have h : State.reset.port p = PortState.reset p := by
    by_cases hp : p = 0 <;> simp [State.port, State.reset, hp, kvFind]
  simp [h, PortState.reset]

/-- Settles O12: each read of the caller, case by case of what it finds. -/
theorem callerReadsResultBusyAndBuffers : Obligations.CallerReadsResultBusyAndBuffers := by
  refine ⟨fun s p hp => ⟨fun hc => ?_, fun hc => ?_, ?_⟩, fun s a => ⟨fun v ha hr hv => ?_, fun ha hfree => ?_,
    fun ha hr hv hw => ?_, fun ha => ?_⟩⟩
  · simp [hostAct, hostReadResult, hp, hc]
  · simp [hostAct, hostReadResult, hp, hc]
  · simp [hostAct, hostReadBusy, hp]
  · simp [hostAct, hostReadByte, State.mayRead, State.looked, State.byteAt, State.fixedByte, ha, hr, hv]
  · have hfixed : s.fixedByte a (s.receiving a) = none := by
      rcases hfree with h | ⟨h, -⟩ <;> simp [State.fixedByte, h]
    have hmay : (s.mayRead a || s.receiving a) = true := by
      rcases hfree with h | ⟨-, h⟩ <;> simp [State.mayRead, h]
    simp [hostAct, hostReadByte, State.looked, State.byteAt, ha, hfixed, hmay]
  · simp [hostAct, hostReadByte, State.mayRead, ha, hr, hv, hw]
  · simp [hostAct, hostReadByte, ha]

/-! When RESULT changes. -/

/-- Every act of the host but the reset leaves RESULT of every port. -/
theorem hostAct_result {a : HostAct} {s t : State} (h : hostAct a s = .next t) (ha : a ≠ .reset) (p : Nat) :
    (t.port p).result = (s.port p).result := by
  cases hostAct_move h with
  | accept q b _ ht =>
    subst ht
    by_cases hp : p = q
    · subst hp
      rw [focus_accept_port_same, State.accept_cur_result, focus_cur]
    · rw [focus_accept_port_other hp]
  | read rs n ht => subst ht; rfl
  | provide x v _ ht =>
    have hport : t.port p = (s.port p).disturb s.cfg.addrW x := by
      subst ht
      exact port_map (f := fun _ q => q.disturb s.cfg.addrW x) rfl rfl rfl rfl
    rw [hport]
    unfold PortState.disturb
    split <;> rfl
  | provideRx rs ht => subst ht; rfl
  | reset ha' _ => exact absurd ha' ha

/-- An engine step changes RESULT of a port only by finishing there. -/
theorem exec_result {i : Instr} {s t : State} (h : exec i s = .next t) {p : Nat}
    (hne : (t.port p).result ≠ (s.port p).result) : p = s.sel ∧ (t.port p).busy = false := by
  obtain ⟨-, -, -, -, -, -, hsel, hothers, -⟩ := (exec_primitive h).sameAgents
  have hp : p = s.sel := by
    by_contra hp
    rw [port_of_ne_sel hsel hothers hp] at hne
    exact hne rfl
  rw [port_sel (hsel.trans hp.symm)] at hne ⊢
  rw [port_sel hp.symm] at hne
  obtain ⟨e, -, -, hres, -⟩ | hfin := (exec_primitive h).logsOne_or_finish
  · exact absurd hres hne
  · exact ⟨hp, by rw [hfin]; rfl⟩

/-- Settles O60: of the moves of a step only finish and the host's reset change RESULT. -/
theorem resultChangesOnlyAtCompletion : Obligations.ResultChangesOnlyAtCompletion := by
  intro s t p hx hne
  have hport (q : Nat) : (s.picked.focus q).port p = s.port p := (focus_port q p _).trans (picked_port p s)
  cases hx ▸ step_is s with
  | waits _ ht => cases ht; exact absurd rfl hne
  | exec q _ hb ht =>
    rw [← hport q] at hne
    obtain ⟨hp, hdone⟩ := exec_result ht.symm hne
    rw [focus_sel] at hp
    subst hp
    refine .inl ⟨?_, hdone⟩
    rwa [← hport p, port_sel (focus_sel p _)]
  | idles q _ ht =>
    cases ht
    rw [hport] at hne
    exact absurd rfl hne
  | acts a rest hm hi ht =>
    refine .inr ⟨hm, ?_⟩
    by_contra ha
    have hreset : a ≠ .reset := by simpa [hi] using ha
    exact hne ((hostAct_result ht.symm hreset p).trans (congrArg PortState.result (picked_port p s)))
  | rests _ ht =>
    cases ht
    rw [picked_port] at hne
    exact absurd rfl hne

end Sys2Proof.Machine
end

section
/-! PROOF. The working registers a command does not use: no step of it before the finishing one writes them (10_state R28). -/

namespace Sys2Proof.Machine

/-- The working registers with those a command uses set to 0: what is left is what it does not use (10_state R28, its column
"used by"). -/
def unusedWork (i : Instr) (w : Work) : Work :=
  match i with
  | .init | .start | .stop | .sendBit _ => w
  | .recvBit => { w with sample := 0, polls := 0 }
  | .sendByte _ => { w with shift := 0, bitcnt := 0, sample := 0, acked := 0 }
  | .recvByte _ => { w with shift := 0, bitcnt := 0, sample := 0, polls := 0 }
  | .write _ | .wrRegIdx _ _ | .wrReg _ _ _ | .wrRegs _ _ =>
    { w with shift := 0, bitcnt := 0, sample := 0, acked := 0, idx := 0 }
  | .read _ => { w with shift := 0, bitcnt := 0, sample := 0, acked := 0, idx := 0, polls := 0 }
  | _ => Work.reset

section

/-! f is a view of the working registers, of which the lemmas say which registers it must not see. -/

variable {f : Work → Work}

/-- A move of the sequencer that changes nothing f sees. -/
def Leaves (f : Work → Work) (g : State → State) : Prop := ∀ u, f (g u).cur.work = f u.cur.work

theorem leaves_goto (p : Pos) : Leaves f (State.goto p) := fun _ => rfl

theorem lineStep_leaves {code : List LineAct} {here : Nat → Pos} {ret : State → State} {k : Nat} {s t : State}
    (h : lineStep code here ret k s = .next t) (hr : Leaves f ret) : f t.cur.work = f s.cur.work := by
  obtain ⟨a, -, ⟨-, rfl⟩ | ⟨-, rfl⟩⟩ := lineStep_next h
  · simp
  · rw [hr, perform_cur_work]

/-- f does not see SHIFT and BITCNT. -/
def IgnoresByte (f : Work → Work) : Prop := ∀ (w : Work) x n, f { w with shift := x, bitcnt := n } = f w

/-- f does not see SAMPLE. -/
def IgnoresSample (f : Work → Work) : Prop := ∀ (w : Work) v, f { w with sample := v } = f w

/-- f does not see POLLS. -/
def IgnoresPolls (f : Work → Work) : Prop := ∀ (w : Work) n, f { w with polls := n } = f w

/-- f does not see ACKED. -/
def IgnoresAcked (f : Work → Work) : Prop := ∀ (w : Work) a, f { w with acked := a } = f w

/-- f does not see IDX. -/
def IgnoresIdx (f : Work → Work) : Prop := ∀ (w : Work) n, f { w with idx := n } = f w

theorem leaves_callSendByte (hb : IgnoresByte f) (site : SendSite) (d : Byte) : Leaves f (callSendByte site d) :=
  fun _ => hb _ _ _

theorem leaves_callReceiveByte (hb : IgnoresByte f) (site : RecvSite) : Leaves f (callReceiveByte site) :=
  fun _ => hb _ _ _

theorem leaves_nextSendBit (hb : IgnoresByte f) (site : SendSite) : Leaves f (nextSendBit site) := by
  intro u
  simp only [nextSendBit]
  split <;> exact hb _ _ _

theorem leaves_nextReceiveBit (hb : IgnoresByte f) (site : RecvSite) : Leaves f (nextReceiveBit site) := by
  intro u
  simp only [nextReceiveBit]
  split <;> exact hb _ _ _

theorem leaves_nextPayload (hb : IgnoresByte f) (n : Nat) (data : Nat → Payload) : Leaves f (nextPayload n data) := by
  intro u
  simp only [nextPayload]
  split
  · split
    · exact leaves_callSendByte hb _ _ u
    · rfl
  · rfl

theorem leaves_nextReceived (hb : IgnoresByte f) (n : Nat) : Leaves f (nextReceived n) := by
  intro u
  simp only [nextReceived]
  split
  · exact leaves_callReceiveByte hb _ u
  · rfl

theorem leaves_afterAddress {go : State → State} (hgo : Leaves f go) : Leaves f (afterAddress go) := by
  intro u
  simp only [afterAddress]
  split
  · rfl
  · exact hgo u

theorem leaves_afterPayload (hb : IgnoresByte f) (hi : IgnoresIdx f) (n : Nat) (data : Nat → Payload) :
    Leaves f (afterPayload n data) := by
  intro u
  simp only [afterPayload]
  split
  · rfl
  · exact (leaves_nextPayload hb n data _).trans (hi _ _)

theorem getLine_leaves (hs : IgnoresSample f) (l : Line) (s : State) :
    f (s.getLine l).cur.work = f s.cur.work := by
  rw [State.getLine_cur_work, hs]

theorem sendByteStep_leaves (hb : IgnoresByte f) (hs : IgnoresSample f) (ha : IgnoresAcked f) {site : SendSite}
    {ret : State → State} {p : SendPos} {s t : State} (h : sendByteStep site ret p s = .next t) (hr : Leaves f ret) :
    f t.cur.work = f s.cur.work := by
  cases p with
  | bit k => simp only [sendByteStep] at h; exact lineStep_leaves h (leaves_nextSendBit hb site)
  | release k => simp only [sendByteStep] at h; exact lineStep_leaves h (leaves_goto _)
  | sample => cases h; exact getLine_leaves hs .sda s
  | pulse k => simp only [sendByteStep] at h; exact lineStep_leaves h (fun _ => (hr _).trans (ha _ _))

theorem receiveBitStep_leaves (hs : IgnoresSample f) (hp : IgnoresPolls f) {site : RecvSite} {ret : State → State}
    {p : RecvPos} {s t : State} (h : receiveBitStep site ret p s = .next t) (hr : Leaves f ret) :
    f t.cur.work = f s.cur.work := by
  cases p with
  | raise k => simp only [receiveBitStep] at h; exact lineStep_leaves h (fun _ => hp _ _)
  | poll =>
    cases h
    rw [pollStep_work]
    exact (hp { s.cur.work with sample := (pollStep site s).cur.work.sample } _).trans (hs _ _)
  | sample => cases h; exact getLine_leaves hs .sda s
  | lower k => simp only [receiveBitStep] at h; exact lineStep_leaves h hr
  | ack k => cases h

theorem receiveByteStep_leaves (hb : IgnoresByte f) (hs : IgnoresSample f) (hp : IgnoresPolls f) {site : RecvSite}
    {a : BitVec 1} {ret : State → State} {p : RecvPos} {s t : State}
    (h : receiveByteStep site a ret p s = .next t) (hr : Leaves f ret) : f t.cur.work = f s.cur.work := by
  have hbit := leaves_nextReceiveBit hb site
  cases p with
  | ack k => simp only [receiveByteStep] at h; exact lineStep_leaves h hr
  | raise k => exact receiveBitStep_leaves hs hp (p := .raise k) h hbit
  | poll => exact receiveBitStep_leaves hs hp (p := .poll) h hbit
  | sample => exact receiveBitStep_leaves hs hp (p := .sample) h hbit
  | lower k => exact receiveBitStep_leaves hs hp (p := .lower k) h hbit

theorem memReadStep_leaves (hb : IgnoresByte f) {src : Payload} {s t : State} (h : memReadStep src s = .next t) :
    f t.cur.work = f s.cur.work := by
  cases src with
  | field v => cases h
  | buffer off =>
    simp only [memReadStep, State.memRead] at h
    split at h
    · obtain ⟨n, hn⟩ := looked_eq (bufAddr s.cfg.addrW s.cur.txa off) (s.disturbedAt (bufAddr s.cfg.addrW s.cur.txa off)) s
      rw [hn] at h
      cases h
      exact leaves_callSendByte hb _ _ _
    · cases h

theorem writeStep_leaves (hb : IgnoresByte f) (hs : IgnoresSample f) (ha : IgnoresAcked f) (hi : IgnoresIdx f)
    {addr : BitVec 7} {n : Nat} {data : Nat → Payload} {ret : State → State} {s t : State} (hr : Leaves f ret)
    (hpos : ¬ finishing s.cur.pos) (h : writeStep addr n data ret s = .next t) : f t.cur.work = f s.cur.work := by
  unfold writeStep at h
  split at h
  · exact lineStep_leaves h (leaves_callSendByte hb _ _)
  · exact sendByteStep_leaves hb hs ha h (leaves_afterAddress fun _ => (leaves_nextPayload hb n data _).trans (hi _ _))
  · exact memReadStep_leaves hb h
  · exact sendByteStep_leaves hb hs ha h (leaves_afterPayload hb hi n data)
  · exact lineStep_leaves h hr
  · exact lineStep_leaves h (leaves_goto _)
  · exact lineStep_leaves h (leaves_goto _)
  · cases h; rfl
  · cases h; rfl
  · exact absurd (.inr (.inl ‹_›)) hpos
  · cases h

theorem readStep_leaves (hb : IgnoresByte f) (hs : IgnoresSample f) (ha : IgnoresAcked f) (hi : IgnoresIdx f)
    (hp : IgnoresPolls f) {addr : BitVec 7} {n : Nat} {ret : State → State} {s t : State} (hr : Leaves f ret)
    (hpos : ¬ finishing s.cur.pos) (h : readStep addr n ret s = .next t) : f t.cur.work = f s.cur.work := by
  unfold readStep at h
  split at h
  · exact lineStep_leaves h (leaves_callSendByte hb _ _)
  · exact sendByteStep_leaves hb hs ha h (leaves_afterAddress fun _ => (leaves_nextReceived hb n _).trans (hi _ _))
  · exact receiveByteStep_leaves hb hs hp h (leaves_goto _)
  · simp only [memWriteStep, State.memWrite] at h
    split at h <;> cases h
    exact (leaves_nextReceived hb n _).trans (hi _ _)
  · exact lineStep_leaves h hr
  · exact lineStep_leaves h (leaves_goto _)
  · cases h; rfl
  · exact absurd (.inr (.inl ‹_›)) hpos
  · cases h; rfl
  · exact absurd (.inr (.inr (.inl ‹_›))) hpos
  · cases h

end

theorem beginCommand_unusedWork {i : Instr} (s : State) :
    unusedWork i (beginCommand i s).cur.work = unusedWork i s.cur.work := by
  cases i <;> rfl

theorem beginCommand_not_finishing (i : Instr) (s : State) : ¬ finishing (beginCommand i s).cur.pos := by
  cases i <;> simp [finishing, beginCommand, callSendByte, callReceiveByte, beginPhase]

/-- Before it finishes a command leaves the working registers it does not use. -/
theorem exec_unusedWork {i : Instr} {s t : State} (hi : i.reserved = false) (hpos : ¬ finishing s.cur.pos)
    (h : exec i s = .next t) : unusedWork i t.cur.work = unusedWork i s.cur.work := by
  have he : s.cur.pos ≠ .entry := fun h => hpos (.inr (.inr (.inr h)))
  have hf : s.cur.pos ≠ .finish := fun h => hpos (.inl h)
  cases i with
  | init | start | stop | sendBit _ =>
    simp only [exec, execInit, execStart, execStop, execSendBit, enter_of_ne he] at h
    split at h
    · exact lineStep_leaves h (leaves_goto _)
    · exact absurd ‹_› hf
    · cases h
  | recvBit =>
    simp only [exec, execRecvBit, enter_of_ne he] at h
    split at h
    · exact receiveBitStep_leaves (fun _ _ => rfl) (fun _ _ => rfl) h (leaves_goto _)
    · cases h; rfl
    · exact absurd (.inr (.inr (.inl ‹_›))) hpos
    · exact absurd ‹_› hf
    · cases h
  | sendByte d =>
    simp only [exec, execSendByte, enter_of_ne he] at h
    split at h
    · exact sendByteStep_leaves (fun _ _ _ => rfl) (fun _ _ => rfl) (fun _ _ => rfl) h (leaves_goto _)
    · exact absurd ‹_› hf
    · cases h
  | recvByte a =>
    simp only [exec, execRecvByte, enter_of_ne he] at h
    split at h
    · exact receiveByteStep_leaves (fun _ _ _ => rfl) (fun _ _ => rfl) (fun _ _ => rfl) h (leaves_goto _)
    · cases h; rfl
    · exact absurd (.inr (.inr (.inl ‹_›))) hpos
    · exact absurd ‹_› hf
    · cases h
  | write _ | wrRegIdx _ _ | wrReg _ _ _ | wrRegs _ _ =>
    rw [exec_of_writePlan rfl he hf] at h
    exact writeStep_leaves (fun _ _ _ => rfl) (fun _ _ => rfl) (fun _ _ => rfl) (fun _ _ => rfl) (leaves_goto _) hpos h
  | read addr =>
    simp only [exec, execRead, enter_of_ne he] at h
    exact readStep_leaves (fun _ _ _ => rfl) (fun _ _ => rfl) (fun _ _ => rfl) (fun _ _ => rfl) (fun _ _ => rfl)
      (leaves_goto _) hpos h
  | rdReg _ _ | rdRegs _ _ => rfl
  | _ => cases hi

/-- Settles O52: before it finishes a command leaves what it does not use (exec_unusedWork), from its entry too. -/
theorem workingRegistersOfOtherCommandsStay : Obligations.WorkingRegistersOfOtherCommandsStay := by
  intro i s t h hfinish hfail hstall hi
  have hwork : unusedWork i t.cur.work = unusedWork i s.cur.work := by
    by_cases he : s.cur.pos = .entry
    · rw [exec_entry hi he] at h
      exact (exec_unusedWork hi (beginCommand_not_finishing i s) h).trans (beginCommand_unusedWork s)
    · exact exec_unusedWork hi (by simp [finishing, *]) h
  cases i with
  | init | start | stop | sendBit _ => exact hwork
  | recvBit =>
    simp only [unusedWork, Work.mk.injEq] at hwork
    obtain ⟨hshift, hbitcnt, -, hacked, hidx, hphase, -⟩ := hwork
    simp [← hshift, ← hbitcnt, ← hacked, ← hidx, ← hphase]
  | sendByte _ | recvByte _ | write _ | wrRegIdx _ _ | wrReg _ _ _ | wrRegs _ _ | read _ =>
    simpa [unusedWork] using hwork
  | _ => trivial

end Sys2Proof.Machine
end

section
/-! PROOF. Caller memory: what the caller places in it, what a send reads of it where nothing fixes the byte, and what an engine
step leaves of it and of the other ports; and the word the host places (20_memory R50, R52, R59, R62; 70 R241, R246). -/

namespace Sys2Proof.Machine

/-! An engine step. -/

/-- Settles O49: an engine step moves the port in focus and keeps the list of the others (Primitive.sameAgents). -/
theorem execChangesNoOtherPort : Obligations.ExecChangesNoOtherPort := by
  intro i s t p h hp
  obtain ⟨-, -, -, -, -, -, hsel, hothers, -⟩ := (exec_primitive h).sameAgents
  exact port_of_ne_sel hsel hothers hp

/-- Caller memory with the received byte SHIFT at RXA + IDX (42_buffer_master R162). -/
def memReceived (s : State) : List Host.Cell :=
  memPut (bufAddr s.cfg.addrW s.cur.rxa s.cur.work.idx.toNat) s.cur.work.shift s.mem

theorem memWriteStep_mem {n : Nat} {s t : State} (h : memWriteStep n s = .next t) : t.mem = memReceived s := by
  simp only [memWriteStep, State.memWrite] at h
  split at h <;> cases h
  exact (silent_nextReceived n _).mem

/-- Of the primitives only MemWrite changes caller memory. -/
theorem Primitive.mem_of_ne_memWrite {s t : State} (h : Primitive s t) (hp : s.cur.pos ≠ .memWrite) : t.mem = s.mem := by
  cases h with
  | line a h => exact h.mem.trans (by rw [perform_eq])
  | read l h => exact h.mem.trans (State.getLine_mem l s)
  | memRead a v n h => exact h.mem
  | memWrite hp' _ => exact absurd hp' hp
  | diag e h => exact h.mem
  | finish r _ h => exact h ▸ rfl

/-- MemWrite is a position of read alone: at it a composite read is in its second phase. -/
theorem registerReadStep_memWrite {addr : BitVec 7} {index : Byte} {n : Nat} {s t : State} (hp : s.cur.pos = .memWrite)
    (h : registerReadStep addr index n s = .next t) : memWriteStep n s = .next t := by
  unfold registerReadStep at h
  split at h
  · simp [writeStep, hp] at h
  · simpa [readStep, hp] using h

/-- A step of exec at MemWrite is the MemWrite of a command that has a receive buffer. -/
theorem exec_memWrite {i : Instr} {s t : State} (hp : s.cur.pos = .memWrite) (h : exec i s = .next t) :
    (∃ len, i.rxBytes len ≠ 0) ∧ t.mem = memReceived s := by
  have he : s.cur.pos ≠ .entry := by simp [hp]
  have hf : s.cur.pos ≠ .finish := by simp [hp]
  cases i with
  | read addr =>
    simp only [exec, execRead, enter_of_ne he, hp, readStep] at h
    exact ⟨⟨1, Nat.one_ne_zero⟩, memWriteStep_mem h⟩
  | rdReg addr index =>
    simp only [exec, execRdReg, enter_of_ne he, hp] at h
    exact ⟨⟨0, Nat.one_ne_zero⟩, memWriteStep_mem (registerReadStep_memWrite hp h)⟩
  | rdRegs addr index =>
    simp only [exec, execRdRegs, enter_of_ne he, hp] at h
    exact ⟨⟨1, Nat.one_ne_zero⟩, memWriteStep_mem (registerReadStep_memWrite hp h)⟩
  | write _ | wrRegIdx _ _ | wrReg _ _ _ | wrRegs _ _ =>
    rw [exec_of_writePlan rfl he hf] at h
    simp [writeStep, hp] at h
  | init | start | stop | sendBit _ | recvBit | sendByte _ | recvByte _ =>
    simp [exec, execInit, execStart, execStop, execSendBit, execRecvBit, execSendByte, execRecvByte, enter_of_ne he, hp] at h
  | _ =>
    have hi : illegalStep s = .next t := h
    simp [illegalStep, hp] at hi

/-- Settles O51: at MemWrite memory takes the received byte (exec_memWrite), elsewhere it stays
(Primitive.mem_of_ne_memWrite). -/
theorem memoryChangesOnlyAtTheReceivedByte : Obligations.MemoryChangesOnlyAtTheReceivedByte := by
  intro i s t a h
  by_cases hp : s.cur.pos = .memWrite
  · obtain ⟨⟨len, hlen⟩, hmem⟩ := exec_memWrite hp h
    rw [hmem]
    exact ⟨fun ha => memFind_memPut_other (ha hp) _ _, fun _ => memFind_memPut_same _ _ _, fun h0 => absurd (h0 len) hlen⟩
  · have hmem := (exec_primitive h).mem_of_ne_memWrite hp
    exact ⟨fun _ => by rw [hmem], fun hp' => absurd hp' hp, fun _ => hmem⟩

/-- The MemRead of a payload byte that is disturbed, or holds no value, finds the free value and sends it (20_memory R62). -/
theorem exec_memRead_open {i : Instr} {s : State} {n off : Nat} {data : Nat → Payload}
    (hw : writePlan i s.cur.len = some (n, data)) (hp : s.cur.pos = .memRead)
    (hoff : data s.cur.work.idx.toNat = .buffer off) (hr : s.mayRead (bufAddr s.cfg.addrW s.cur.txa off) = true)
    (hfree : bufAddr s.cfg.addrW s.cur.txa off ∈ s.cur.disturbed ∨ memFind (bufAddr s.cfg.addrW s.cur.txa off) s.mem = none) :
    ∃ t, exec i s = .next t ∧ t.cur.work.shift = Config.freeByte s.draws
      ∧ t.cur.history = s.cur.history ++ [.mr (bufAddr s.cfg.addrW s.cur.txa off) (Config.freeByte s.draws)] := by
  rw [exec_of_writePlan hw (by simp [hp]) (by simp [hp])]
  simp only [writeStep, hp, hoff, memReadStep, memRead_open hr hfree]
  exact ⟨_, rfl, rfl, rfl⟩

/-- Settles O16: the two commands whose payload comes from the send buffer, each byte at its own place in it. -/
theorem disturbedOrUnwrittenByteIsFree : Obligations.DisturbedOrUnwrittenByteIsFree := by
  intro addr index s a hp hr hfree
  refine ⟨fun ha => ?_, fun hidx ha => ?_⟩ <;> subst ha
  · exact exec_memRead_open rfl hp rfl hr hfree
  · exact exec_memRead_open rfl hp (if_neg hidx) hr hfree

/-! What the caller places. -/

/-- Noting a disturbed send buffer changes the note only. -/
theorem disturb_rest (w a : Nat) (q : PortState) :
    { q.disturb w a with disturbed := [] } = { q with disturbed := [] } := by
  unfold PortState.disturb
  split <;> rfl

/-- The caller's placing of a byte at most makes each port note it. -/
theorem hostProvide_port {a : Nat} {v : Byte} {s t : State} (h : hostProvide a v s = .next t) (p : Nat) :
    t.port p = (s.port p).disturb s.cfg.addrW a := by
  simp only [hostProvide] at h
  split at h <;> cases h
  exact port_map (f := fun _ q => q.disturb s.cfg.addrW a) rfl rfl rfl rfl

/-- Settles O15: the byte is put at its address, and every port keeps all but its note (hostProvide_port, disturb_rest). -/
theorem placedBytesAreHeld : Obligations.PlacedBytesAreHeld := by
  intro s a v
  refine ⟨fun ha => ?_, fun ha => by simp [hostAct, hostProvide, ha]⟩
  refine ⟨_, if_pos ha, memFind_memPut_same a v s.mem,
    fun b hb => memFind_memPut_other hb v s.mem, fun p => ?_, rfl, rfl, rfl, rfl, rfl, rfl, rfl⟩
  rw [hostProvide_port (if_pos ha)]
  exact disturb_rest _ _ _

/-- A sequencer whose move it is runs the command in flight on its port, in focus already. -/
theorem step_of_engine {s u : State} (hpicked : s.picked = u) (hm : s.mover = some (.engine u.sel))
    (hb : u.cur.busy = true) : step s = exec (decode u.cur.cmd) u := by
  simp [step, hm, hpicked, moveStep, engineStep, State.focus, hb]

/-- A placed word is accepted with its operands 0, and its sequencer is the next to move (log 11). -/
theorem load_mover_picked (w : Word) (s : State) : (s.load w).mover = some (.engine s.sel)
    ∧ (s.load w).picked = s.accept { cmd := w, len := 0, txa := 0, rxa := 0 } := by
  simp only [State.load]
  split
  · rename_i h
    obtain ⟨hm, hturn, hone⟩ := h
    exact ⟨hm, by simp only [State.picked, hturn, if_pos hone]⟩
  · exact ⟨rfl, rfl⟩

/-- Settles O8: the step after the placing is exec of the word at its acceptance (load_mover_picked). -/
theorem placedWordRunsNext : Obligations.PlacedWordRunsNext := by
  intro s w _
  obtain ⟨hm, hpicked⟩ := load_mover_picked (BitVec.ofNat 32 w) s
  have hstep := step_of_engine hpicked hm rfl
  rw [State.accept_cur_cmd] at hstep
  exact ⟨_, hstep, rfl, rfl, rfl, rfl, rfl⟩

end Sys2Proof.Machine
end

section
/-! PROOF. The command word: its fields, the row of each OP, and the words the assembler writes (30_encoding R87 to R92,
R98). -/

namespace Sys2Proof.Machine

/-! The fields of a word put together from fields (30_encoding R87). -/

theorem fieldF_cmdWord (rsv : BitVec 4) (b1 b0 : BitVec 8) (addr : BitVec 7) (f : BitVec 1) (op : BitVec 4) :
    fieldF (cmdWord rsv b1 b0 addr f op) = f := by
  ext k hk
  interval_cases k
  simp [fieldF, cmdWord]

theorem fieldAddr_cmdWord (rsv : BitVec 4) (b1 b0 : BitVec 8) (addr : BitVec 7) (f : BitVec 1) (op : BitVec 4) :
    fieldAddr (cmdWord rsv b1 b0 addr f op) = addr := by
  ext k hk
  interval_cases k <;> simp [fieldAddr, cmdWord]

theorem fieldB0_cmdWord (rsv : BitVec 4) (b1 b0 : BitVec 8) (addr : BitVec 7) (f : BitVec 1) (op : BitVec 4) :
    fieldB0 (cmdWord rsv b1 b0 addr f op) = b0 := by
  ext k hk
  interval_cases k <;> simp [fieldB0, cmdWord]

theorem fieldB1_cmdWord (rsv : BitVec 4) (b1 b0 : BitVec 8) (addr : BitVec 7) (f : BitVec 1) (op : BitVec 4) :
    fieldB1 (cmdWord rsv b1 b0 addr f op) = b1 := by
  ext k hk
  interval_cases k <;> simp [fieldB1, cmdWord]

/-- Every command, reserved rows included, is decoded from its word: the fields it reads stand in the word as they were put
there. -/
theorem decode_encode (i : Instr) : decode (encode i) = i := by
  cases i <;> simp [encode, reservedWord, decode, decodeOp, fieldRsv_cmdWord, fieldOp_cmdWord, fieldF_cmdWord,
    fieldAddr_cmdWord, fieldB0_cmdWord, fieldB1_cmdWord]

/-- Settles O1: decode_encode, of the commands an assembler may write too. -/
theorem decodeOfEncode : Obligations.DecodeOfEncode := fun i _ => decode_encode i

/-! Decoding any word. -/

theorem decode_of_rsv_zero {w : Word} (h : fieldRsv w = 0) : decode w = decodeOp w := by
  simp [decode, h]

theorem decode_reserved_of_rsv {w : Word} (h : fieldRsv w ≠ 0) : (decode w).reserved = true := by
  unfold decode
  split
  · rename_i h0
    exact absurd (BitVec.eq_of_toNat_eq h0) h
  all_goals rfl

/-- A word with RSV = 0 is reserved by its OP alone (30_encoding R90). -/
theorem decodeOp_reserved_iff (w : Word) : (decodeOp w).reserved = true ↔ (fieldOp w = 0xE ∨ fieldOp w = 0xF) := by
  simp only [← BitVec.toNat_inj]
  have hlt := (fieldOp w).isLt
  unfold decodeOp
  split
  case h_16 =>
    simp only [imp_false] at *
    have h15 : (fieldOp w).toNat = 15 := by omega
    simp [Instr.reserved, h15]
  all_goals simp_all [Instr.reserved]

/-- Settles O2: RSV not 0 is reserved (decode_reserved_of_rsv); with RSV = 0 the row is read off OP. -/
theorem decodeFollowsThePseudocode : Obligations.DecodeFollowsThePseudocode := by
  intro w
  change ((decode w).reserved = true ↔ (fieldRsv w ≠ 0 ∨ fieldOp w = 0xE ∨ fieldOp w = 0xF)) ∧ (fieldRsv w = 0 → _)
  by_cases h : fieldRsv w = 0
  · rw [decode_of_rsv_zero h, decodeOp_reserved_iff]
    refine ⟨by simp [h], fun _ => ?_⟩
    refine ⟨?_, ?_, ?_, ?_, ?_, ?_, ?_, ?_, ?_, ?_, ?_, ?_, ?_, ?_⟩ <;>
      (intro hop; simp only [decodeOp, fieldOp, hop]; rfl)
  · exact ⟨iff_of_true (decode_reserved_of_rsv h) (.inl h), fun h0 => absurd h0 h⟩

/-- Settles O3: the row is that of the common OP, and each row reads fields on which the words agree. -/
theorem decodeReadsOnlyListedFields : Obligations.DecodeReadsOnlyListedFields := by
  intro w v hw hv hop hf haddr hb0 hb1
  rw [decode_of_rsv_zero hw, decode_of_rsv_zero hv]
  simp only [hop, ← BitVec.toNat_inj (x := fieldOp v)] at hf haddr hb0 hb1
  unfold decodeOp
  rw [hop]
  split <;> simp_all

/-- Settles O4: each word by computing it. -/
theorem vectorWordsDecode : Obligations.VectorWordsDecode := by
  unfold Obligations.VectorWordsDecode
  decide

/-- A line whose command is the word of these fields assembles to them, where its check says so. -/
theorem assembles_of_encode {c : AsmCmd} {ok : Prop} {op f addr b0 b1 len : Nat} {OP : BitVec 4} {F : BitVec 1}
    {ADDR : BitVec 7} {B0 B1 : BitVec 8} (hok : c.wellFormed = true ↔ ok) (henc : encode c.instr = cmdWord 0 B1 B0 ADDR F OP)
    (hrow : ok → OP.toNat = op ∧ F.toNat = f ∧ ADDR.toNat = addr ∧ B0.toNat = b0 ∧ B1.toNat = b1
      ∧ c.operands.1.toNat = len) :
    Assembles c ok op f addr b0 b1 len c.operands.2.1 c.operands.2.2 := by
  refine ⟨fun h => ?_, fun h => if_neg (mt hok.1 h)⟩
  obtain ⟨hop, hf, haddr, hb0, hb1, hlen⟩ := hrow h
  refine ⟨_, if_pos (hok.2 h), ?_, ?_, ?_, ?_, ?_, ?_, hlen, rfl, rfl⟩ <;> simp only [henc]
  · exact (congrArg BitVec.toNat (fieldOp_cmdWord ..)).trans hop
  · exact (congrArg BitVec.toNat (fieldF_cmdWord ..)).trans hf
  · exact (congrArg BitVec.toNat (fieldAddr_cmdWord ..)).trans haddr
  · exact (congrArg BitVec.toNat (fieldB0_cmdWord ..)).trans hb0
  · exact (congrArg BitVec.toNat (fieldB1_cmdWord ..)).trans hb1
  · exact congrArg BitVec.toNat (fieldRsv_cmdWord ..)

/-- Settles O6: a line's word decodes to its command (decode_encode), and its fields are the line's numbers
(assembles_of_encode), which fit where the line is not refused. -/
theorem assembledLineDecodes : Obligations.AssembledLineDecodes := by
  refine ⟨fun c hc => ⟨_, if_pos hc, decode_encode _⟩, fun a i v b n x => ?_⟩
  refine ⟨?_, ?_, ?_, ?_, ?_, ?_, ?_, ?_, ?_, ?_, ?_, ?_, ?_, ?_, ?_⟩ <;>
    refine assembles_of_encode ?_ rfl ?_ <;>
    simp [AsmCmd.wellFormed, AsmCmd.operands, asmAddrOk, asmByteOk, asmLenOk, asmBitOk, and_assoc] <;> omega

end Sys2Proof.Machine
end

section
/-! PROOF. The address byte, and the RESULT each command ends with (30_encoding R84, R94 to R96; 42_buffer_master R160). -/

namespace Sys2Proof.Machine

/-! The address byte. -/

/-- The address stands above the direction bit, no bit lost (30_encoding R84). -/
theorem addrByte_addr (addr : BitVec 7) (rw : BitVec 1) : (addrByte addr rw).extractLsb' 1 7 = addr := by
  ext k hk
  interval_cases k <;> simp [addrByte]

theorem addrByte_rw (addr : BitVec 7) (rw : BitVec 1) : (addrByte addr rw).extractLsb' 0 1 = rw := by
  ext k hk
  interval_cases k
  simp [addrByte]

/-- The direction of the transaction a Buffer Transfer command is in, PHASE given (42_buffer_master R160, 43_register_gateway
R194, R195). -/
def direction (i : Instr) (phase : BitVec 1) : BitVec 1 :=
  match i with
  | .read _ => 1
  | .rdReg _ _ | .rdRegs _ _ => phase
  | _ => 0

/-- The last primitive of start() calls send_byte of the address byte (42_buffer_master R161, R162). -/
theorem exec_start_last {i : Instr} {s : State} (hi : isTransaction i = true) (hp : s.cur.pos = .start 7) :
    exec i s = .next (callSendByte .address (addrByte (deviceAddr i) (direction i s.cur.work.phase))
      (LineAct.wait.perform s)) := by
  have he : s.cur.pos ≠ .entry := by simp [hp]
  have hf : s.cur.pos ≠ .finish := by simp [hp]
  have write (addr : BitVec 7) (n : Nat) (data : Nat → Payload) (ret : State → State) :
      writeStep addr n data ret s = .next (callSendByte .address (addrByte addr 0) (LineAct.wait.perform s)) := by
    simp only [writeStep, hp]
    rfl
  have read (addr : BitVec 7) (n : Nat) (ret : State → State) :
      readStep addr n ret s = .next (callSendByte .address (addrByte addr 1) (LineAct.wait.perform s)) := by
    simp only [readStep, hp]
    rfl
  have registerRead (addr : BitVec 7) (index : Byte) (n : Nat) : registerReadStep addr index n s
      = .next (callSendByte .address (addrByte addr s.cur.work.phase) (LineAct.wait.perform s)) := by
    unfold registerReadStep
    split
    · rename_i hphase
      rw [write, hphase]
    · rename_i hphase
      rw [(BitVec.eq_zero_or_eq_one s.cur.work.phase).resolve_left hphase]
      exact read _ _ _
  cases i with
  | write _ | wrRegIdx _ _ | wrReg _ _ _ | wrRegs _ _ => exact (exec_of_writePlan rfl he hf).trans (write _ _ _ _)
  | read _ => simp only [exec, execRead, enter_of_ne he, hp, read]; rfl
  | rdReg _ _ => simp only [exec, execRdReg, enter_of_ne he, hp, registerRead]; rfl
  | rdRegs _ _ => simp only [exec, execRdRegs, enter_of_ne he, hp, registerRead]; rfl
  | _ => cases hi

/-- Settles O20: the byte start() hands over (exec_start_last), its bits those of the address and the direction. -/
theorem theFirstByteIsTheAddressByte : Obligations.TheFirstByteIsTheAddressByte := by
  intro i s hi _ hp
  refine ⟨_, exec_start_last hi hp, rfl, rfl, addrByte_addr _ _, (addrByte_rw _ _).trans ?_⟩
  cases i <;> rfl

/-! The RESULT of a command. -/

theorem resultOk_eq : resultOk = 0 := by decide
theorem resultFail_eq : resultFail = 1 := by decide
theorem resultStall_eq : resultStall = 2 := by decide
theorem resultIllegal_eq : resultIllegal = 3 := by decide

/-- VALUE stands at bit 3, ACK at bit 2 of RESULT (30_encoding R94). -/
theorem resultValue_eq (v : Byte) : resultValue v = v.zeroExtend 32 <<< 3 := by
  simp [resultValue, resultWord, statusOk]

theorem resultAck_eq (a : BitVec 1) : resultAck a = a.zeroExtend 32 <<< 2 := by
  simp [resultAck, resultWord, statusOk]

theorem resultValue_bit (b : Level) : resultValue (b.zeroExtend 8) = b.zeroExtend 32 <<< 3 := by
  rw [resultValue_eq]
  revert b
  decide

/-- The RESULT of each command at its own finish: OK, with ACK for SEND_BYTE and VALUE for RECV_BIT, RECV_BYTE and RD_REG
(30_encoding R96). -/
def finishWord (i : Instr) (w : Work) : Word :=
  match i with
  | .recvBit => w.sample.zeroExtend 32 <<< 3
  | .sendByte _ => w.acked.zeroExtend 32 <<< 2
  | .recvByte _ | .rdReg _ _ => w.shift.zeroExtend 32 <<< 3
  | _ => 0

/-- At its finish a command writes its RESULT and clears BUSY. -/
theorem exec_finish {i : Instr} {s : State} (hi : i.reserved = false) (hp : s.cur.pos = .finish) :
    exec i s = .next (s.finish (finishWord i s.cur.work)) := by
  have he : s.cur.pos ≠ .entry := by simp [hp]
  cases i with
  | init | start | stop | sendBit _ | read _ | rdRegs _ _ =>
    simp only [exec, execInit, execStart, execStop, execSendBit, execRead, execRdRegs, enter_of_ne he, hp, resultOk_eq,
      finishWord]
  | write _ | wrRegIdx _ _ | wrReg _ _ _ | wrRegs _ _ => rw [exec_finish_of_writePlan rfl hp, resultOk_eq]; rfl
  | recvBit => simp only [exec, execRecvBit, enter_of_ne he, hp, resultValue_bit, finishWord]
  | sendByte _ => simp only [exec, execSendByte, enter_of_ne he, hp, resultAck_eq, finishWord]
  | recvByte _ | rdReg _ _ => simp only [exec, execRecvByte, execRdReg, enter_of_ne he, hp, resultValue_eq, finishWord]
  | _ => cases hi

/-- Settles O21: the finish of each command (exec_finish), its word written out. -/
theorem finishWritesTheCommandsResult : Obligations.FinishWritesTheCommandsResult := by
  intro s b a x v hp
  refine ⟨?_, ?_, ?_, ?_, ?_, ?_, ?_, ?_, ?_, ?_, ?_, ?_, ?_, ?_⟩ <;> exact exec_finish rfl hp

theorem UpTo.busy {t u : State} (h : UpTo t u) : t.cur.busy = u.cur.busy := by
  unfold UpTo at h
  rw [h]

theorem LogsOne.busy {e : Event} {s t : State} (h : LogsOne e s t) : t.cur.busy = s.cur.busy := by
  obtain ⟨-, hbusy, -⟩ := h
  exact hbusy

/-- Of the primitives only finish clears BUSY. -/
theorem Primitive.finishing_of_busy {s t : State} (h : Primitive s t) (hb : s.cur.busy = true) (hb' : t.cur.busy = false) :
    finishing s.cur.pos := by
  have stays {u : State} (hu : UpTo t u) (hub : u.cur.busy = s.cur.busy) : finishing s.cur.pos := by
    rw [← hu.busy, hb', hb] at hub
    cases hub
  cases h with
  | line a h => exact stays h (logsOne_perform a s).busy
  | read l h => exact stays h (logsOne_getLine l s).busy
  | memRead a v n h => exact stays h rfl
  | memWrite _ h => exact stays h rfl
  | diag e h => exact stays h rfl
  | finish r hp _ => exact hp

/-- A command that is not reserved ends at one of three positions, past its entry. -/
theorem exec_ends {i : Instr} {s t : State} (hi : i.reserved = false) (hb : s.cur.busy = true) (h : exec i s = .next t)
    (hb' : t.cur.busy = false) : s.cur.pos = .finish ∨ s.cur.pos = .finishFail ∨ s.cur.pos = .finishStall := by
  obtain hp | hp | hp | he := (exec_primitive h).finishing_of_busy hb hb'
  · exact .inl hp
  · exact .inr (.inl hp)
  · exact .inr (.inr hp)
  · rw [exec_entry hi he] at h
    exact absurd ((exec_primitive h).finishing_of_busy ((silent_beginCommand i s).busy.trans hb) hb')
      (beginCommand_not_finishing i s)

/-- finish(FAIL) is a position of the Buffer Transfer commands (60_exceptions R214). -/
theorem exec_finishFail {i : Instr} {s : State} (ho : owns i s.cur = true) (hp : s.cur.pos = .finishFail) :
    isTransaction i = true ∧ exec i s = .next (s.finish 1) := by
  have he : s.cur.pos ≠ .entry := by simp [hp]
  have hf : s.cur.pos ≠ .finish := by simp [hp]
  have write (addr : BitVec 7) (n : Nat) (data : Nat → Payload) (ret : State → State) :
      writeStep addr n data ret s = .next (s.finish 1) := by
    simp only [writeStep, hp, failFinishStep, resultFail_eq]
  have read (addr : BitVec 7) (n : Nat) (ret : State → State) : readStep addr n ret s = .next (s.finish 1) := by
    simp only [readStep, hp, failFinishStep, resultFail_eq]
  have registerRead (addr : BitVec 7) (index : Byte) (n : Nat) :
      registerReadStep addr index n s = .next (s.finish 1) := by
    unfold registerReadStep
    split
    · exact write _ _ _ _
    · exact read _ _ _
  cases i with
  | write _ | wrRegIdx _ _ | wrReg _ _ _ | wrRegs _ _ => exact ⟨rfl, (exec_of_writePlan rfl he hf).trans (write _ _ _ _)⟩
  | read _ => exact ⟨rfl, by simp only [exec, execRead, enter_of_ne he, hp, read]⟩
  | rdReg _ _ => exact ⟨rfl, by simp only [exec, execRdReg, enter_of_ne he, hp, registerRead]⟩
  | rdRegs _ _ => exact ⟨rfl, by simp only [exec, execRdRegs, enter_of_ne he, hp, registerRead]⟩
  | _ => simp [owns, hp] at ho

/-- The commands that call receive_bit, and so can stall (40_bit_master R116). -/
def receivesBits : Instr → Bool
  | .recvBit | .recvByte _ | .read _ | .rdReg _ _ | .rdRegs _ _ => true
  | _ => false

/-- finish(STALL) is a position of the commands that receive (40_bit_master R116). -/
theorem exec_finishStall {i : Instr} {s : State} (ho : owns i s.cur = true) (hp : s.cur.pos = .finishStall) :
    receivesBits i = true ∧ exec i s = .next (s.finish 2) := by
  have he : s.cur.pos ≠ .entry := by simp [hp]
  have read (addr : BitVec 7) (n : Nat) (ret : State → State) : readStep addr n ret s = .next (s.finish 2) := by
    simp only [readStep, hp, stallFinishStep, resultStall_eq]
  have registerRead {addr : BitVec 7} {index : Byte} {n : Nat} (ho : registerReadOwns index n s.cur = true) :
      registerReadStep addr index n s = .next (s.finish 2) := by
    unfold registerReadStep
    split
    · rename_i hphase
      simp [registerReadOwns_index hphase, writeOwns, hp] at ho
    · exact read _ _ _
  cases i with
  | recvBit => exact ⟨rfl, by simp only [exec, execRecvBit, enter_of_ne he, hp, stallFinishStep, resultStall_eq]⟩
  | recvByte _ => exact ⟨rfl, by simp only [exec, execRecvByte, enter_of_ne he, hp, stallFinishStep, resultStall_eq]⟩
  | read _ => exact ⟨rfl, by simp only [exec, execRead, enter_of_ne he, hp, read]⟩
  | rdReg _ _ => exact ⟨rfl, by simp only [exec, execRdReg, enter_of_ne he, hp, registerRead ho]⟩
  | rdRegs _ _ => exact ⟨rfl, by simp only [exec, execRdRegs, enter_of_ne he, hp, registerRead ho]⟩
  | _ => simp [owns, hp, writeCommandOwns, writeOwns] at ho

/-- Settles O23: a reserved command ends at its entry; every other at its finish (exec_finish), or at finish(FAIL) or
finish(STALL) where these are positions of it (exec_finishFail, exec_finishStall). -/
theorem eachCommandEndsInItsResults : Obligations.EachCommandEndsInItsResults := by
  intro i s t ho hb h hb'
  have ended {r : Word} (hr : exec i s = .next (s.finish r)) : t.cur.result = r := by
    cases hr.symm.trans h
    rfl
  cases hi : i.reserved with
  | true =>
    have hres := ended (exec_reserved hi (owns_reserved hi ho))
    cases i <;> simp_all [Instr.reserved, resultIllegal_eq]
  | false =>
    obtain hp | hp | hp := exec_ends hi hb h hb'
    · have hres := ended (exec_finish hi hp)
      cases i <;> simp_all [finishWord, Instr.reserved]
    · obtain ⟨hkind, hx⟩ := exec_finishFail ho hp
      have hres := ended hx
      cases i <;> simp_all [isTransaction]
    · obtain ⟨hkind, hx⟩ := exec_finishStall ho hp
      have hres := ended hx
      cases i <;> simp_all [receivesBits]

end Sys2Proof.Machine
end

section
/-! PROOF. What the events of a transaction put on the bus, procedure by procedure (30_encoding R80 to R85). -/

namespace Sys2Proof.Machine

/-- A reader with SCL low and SDA driven at v, as it is between two bits. -/
def WireReader.low (v : Level) : WireReader := { scl := 0, sda := v, plain := false, heard := none }

/-- From w these events put these symbols on the bus and leave the reader at w', whatever follows. -/
def Puts (w : WireReader) (evs : List Event) (syms : List WireSym) (w' : WireReader) : Prop :=
  ∀ rest, w.read (evs ++ rest) = syms ++ w'.read rest

theorem Puts.append {w w' w'' : WireReader} {e f : List Event} {x y : List WireSym} (h : Puts w e x w')
    (k : Puts w' f y w'') : Puts w (e ++ f) (x ++ y) w'' := fun rest => by
  rw [List.append_assoc, h, k, List.append_assoc]

/-- The events put these symbols on the bus from SCL low to SCL low, whatever SDA is driven at. -/
def PutsLow (evs : List Event) (syms : List WireSym) : Prop := ∀ v, ∃ v', Puts (.low v) evs syms (.low v')

theorem PutsLow.append {e f : List Event} {x y : List WireSym} (h : PutsLow e x) (k : PutsLow f y) :
    PutsLow (e ++ f) (x ++ y) := fun v =>
  let ⟨v', h⟩ := h v
  let ⟨v'', k⟩ := k v'
  ⟨v'', h.append k⟩

theorem putsLow_flatMap {α : Type} {evs : α → List Event} {syms : α → List WireSym} (l : List α)
    (h : ∀ a ∈ l, PutsLow (evs a) (syms a)) : PutsLow (l.flatMap evs) (l.flatMap syms) := by
  induction l with
  | nil => exact fun v => ⟨v, fun _ => rfl⟩
  | cons a t ih =>
    rw [List.flatMap_cons, List.flatMap_cons]
    exact (h a List.mem_cons_self).append (ih fun b hb => h b (List.mem_cons_of_mem _ hb))

@[simp] theorem level_and_one (v : Level) : v &&& 1#1 = v := by revert v; decide
@[simp] theorem one_and_level (v : Level) : 1#1 &&& v = v := by revert v; decide

/-! Events that put nothing on the bus. -/

theorem read_mr (w : WireReader) (a : Nat) (v : Byte) (evs : List Event) : w.read (.mr a v :: evs) = w.read evs := rfl

theorem putsLow_mw (a : Nat) (v : Byte) : PutsLow [.mw a v] [] := fun x => ⟨x, fun _ => rfl⟩

/-- Polls put nothing on the bus. -/
theorem puts_polls (w : WireReader) (k : Nat) : Puts w (List.replicate k (.r .scl 0)) [] w := by
  intro rest
  induction k with
  | zero => rfl
  | succ k ih =>
    rw [List.replicate_succ]
    exact ih

/-! The procedures. -/

theorem puts_start (tUs : Nat) : Puts .idle (startEvents tUs) [.start] (.low 0) := by
  intro rest
  simp [startEvents, lineEvents, startCode, LineAct.event, WireReader.read, WireReader.symbols, WireReader.after,
    WireReader.idle, WireReader.low]

theorem puts_stop (tUs : Nat) (v : Level) : Puts (.low v) (stopEvents tUs) [.stop] .idle := by
  intro rest
  simp [stopEvents, lineEvents, stopCode, LineAct.event, WireReader.read, WireReader.symbols, WireReader.after,
    WireReader.idle, WireReader.low]

/-- send_bit puts its bit on the bus (30_encoding R81). -/
theorem putsLow_sendBit (tUs : Nat) (b : Level) : PutsLow (lineEvents tUs (sendBitCode b)) [.bit b] := fun v => ⟨b, fun rest => by
  simp [lineEvents, sendBitCode, LineAct.event, WireReader.read, WireReader.symbols, WireReader.after, WireReader.low]⟩

/-- The acknowledge sample and the ninth clock put the sampled level on the bus (30_encoding R83; log 16). -/
theorem putsLow_acknowledge (tUs : Nat) (v : Level) :
    PutsLow (lineEvents tUs releaseCode ++ (.r .sda v :: lineEvents tUs pulse9Code)) [.bit v] := fun _ => ⟨1, fun rest => by
  simp [lineEvents, releaseCode, pulse9Code, LineAct.event, WireReader.read, WireReader.symbols, WireReader.after,
    WireReader.low]⟩

theorem putsLow_sendByte (tUs : Nat) (d : Byte) (v : Level) : PutsLow (sendByteEvents tUs d v) (frameSyms d v) := by
  unfold sendByteEvents frameSyms
  rw [List.map_eq_flatMap]
  exact (putsLow_flatMap _ fun k _ => putsLow_sendBit tUs _).append (putsLow_acknowledge tUs v)

theorem putsLow_payload (tUs : Nat) (addrOf : Nat → Nat) (src : Payload) (d : Byte) (v : Level) :
    PutsLow (payloadEvents tUs addrOf src d v) (frameSyms d v) := by
  cases src with
  | field _ => exact putsLow_sendByte tUs d v
  | buffer off =>
    intro x
    obtain ⟨x', h⟩ := putsLow_sendByte tUs d v x
    exact ⟨x', fun rest => (read_mr _ _ _ _).trans (h rest)⟩

/-- receive_bit puts the sampled bit on the bus, whatever the stretching (30_encoding R81). -/
theorem putsLow_receiveBit (tUs k : Nat) (b : Level) : PutsLow (receiveBitEvents tUs k b) [.bit b] := by
  intro v
  refine ⟨1, fun rest => ?_⟩
  have raised : Puts (.low v) (lineEvents tUs raiseCode) [] { WireReader.idle with plain := true } := fun rest => by
    simp [lineEvents, raiseCode, LineAct.event, WireReader.read, WireReader.symbols, WireReader.after, WireReader.low,
      WireReader.idle]
  have sampled : Puts { WireReader.idle with plain := true } (.r .scl 1 :: .r .sda b :: lineEvents tUs lowerCode) [.bit b]
      (.low 1) := fun rest => by
    simp [lineEvents, lowerCode, LineAct.event, WireReader.read, WireReader.symbols, WireReader.after, WireReader.low,
      WireReader.idle]
  exact (raised.append ((puts_polls _ k).append sampled)) rest

/-- The engine's acknowledge level and the ninth clock put that level on the bus (30_encoding R83). -/
theorem putsLow_ackCode (tUs : Nat) (sendAck : BitVec 1) :
    PutsLow (lineEvents tUs (ackCode sendAck)) [.bit (ackLevel sendAck)] := fun _ => ⟨ackLevel sendAck, fun rest => by
  simp [lineEvents, ackCode, pulse9Code, LineAct.event, WireReader.read, WireReader.symbols, WireReader.after,
    WireReader.low]⟩

/-- A received bit is the last on the wire (41_byte_master R143). -/
theorem wireBit_shiftIn_last (d : Byte) (b : Level) : wireBit (shiftIn d b) 7 = b := by
  ext j hj
  interval_cases j
  simp [wireBit, shiftIn]

/-- The bits received before it move one place up (41_byte_master R143). -/
theorem wireBit_shiftIn (d : Byte) (b : Level) {k : Nat} (hk : k < 7) : wireBit (shiftIn d b) k = wireBit d (k + 1) := by
  ext j hj
  interval_cases j
  interval_cases k <;> simp [wireBit, shiftIn]

/-- The k-th of eight received bits is the k-th bit of the byte on the wire (41_byte_master R143). -/
theorem wireBits_assembled {bits : List (Nat × Level)} (h : bits.length = 8) :
    (List.range 8).map (fun k => wireBit (assembled bits) k) = bits.map fun b => b.2 := by
  match bits, h with
  | [_, _, _, _, _, _, _, _], _ =>
    simp [List.range_succ, assembled, wireBit_shiftIn, wireBit_shiftIn_last]

theorem putsLow_receiveByte (tUs : Nat) {bits : List (Nat × Level)} (h : bits.length = 8) (sendAck : BitVec 1) :
    PutsLow (receiveByteEvents tUs bits sendAck) (frameSyms (assembled bits) (ackLevel sendAck)) := by
  have hbits : (List.range 8).map (fun k => WireSym.bit (wireBit (assembled bits) k)) = bits.flatMap fun b => [.bit b.2] := by
    have := congrArg (List.map WireSym.bit) (wireBits_assembled h)
    simpa only [List.map_map, Function.comp_def, ← List.map_eq_flatMap] using this
  unfold receiveByteEvents frameSyms
  rw [hbits]
  exact (putsLow_flatMap _ fun b _ => putsLow_receiveBit tUs b.1 b.2).append (putsLow_ackCode tUs sendAck)

/-! Transactions. -/

/-- A transaction, from START to STOP, and what puts nothing on the bus after it (30_encoding R85). -/
theorem read_transaction {tUs : Nat} {evs tail : List Event} {syms : List WireSym} (h : PutsLow evs syms)
    (htail : WireReader.idle.read tail = []) :
    WireReader.idle.read (startEvents tUs ++ (evs ++ (stopEvents tUs ++ tail))) = .start :: (syms ++ [.stop]) := by
  obtain ⟨v, h⟩ := h 0
  have := ((puts_start tUs).append (h.append (puts_stop tUs v))) tail
  simpa [htail] using this

theorem read_addrNackEvents (tUs : Nat) (addr : BitVec 7) (rw v : BitVec 1) :
    WireReader.idle.read (addrNackEvents tUs addr rw v) = .start :: (frameSyms (addrByte addr rw) v ++ [.stop]) :=
  read_transaction (putsLow_sendByte _ _ _) rfl

/-- Settles O43: START, the frames sent (putsLow_sendByte, putsLow_payload), STOP. -/
theorem writeWaveform : Obligations.WriteWaveform := by
  intro tUs addrOf addr data d n
  have haddr := putsLow_sendByte tUs (addrByte addr 0) 0
  have hpayload := putsLow_flatMap (List.range n) fun j _ => putsLow_payload tUs addrOf (data j) (d j) 0
  refine ⟨?_, read_addrNackEvents tUs addr 0 1, ?_⟩
  · have := read_transaction (tUs := tUs) (tail := []) (haddr.append hpayload) rfl
    simpa [writeEvents, payloadsEvents] using this
  · have := read_transaction (tUs := tUs) (tail := [.g (.dataNack n)])
      (haddr.append (hpayload.append (putsLow_payload tUs addrOf (data n) (d n) 1))) rfl
    simpa [dataNackEvents, payloadsEvents] using this

/-- All received bytes but the last are acknowledged (42_buffer_master R162). -/
theorem ackLevel_readAck {j n : Nat} (h : j < n) : ackLevel (readAck j n) = if j + 1 = n then 1 else 0 := by
  have hlast : j = n - 1 ↔ j + 1 = n := by omega
  by_cases hj : j + 1 = n <;> simp [ackLevel, readAck, hlast, hj]

/-- Settles O44: START, the address frame, the frames received (putsLow_receiveByte), STOP. -/
theorem readWaveform : Obligations.ReadWaveform := by
  intro tUs addrOf addr bs n
  refine ⟨fun h => ?_, read_addrNackEvents tUs addr 1 1⟩
  have hbytes : PutsLow (receivedEvents tUs addrOf bs n)
      ((List.range n).flatMap fun j => frameSyms (assembled (bs j)) (if j + 1 = n then 1 else 0)) := by
    refine putsLow_flatMap _ fun j hj => ?_
    have hj := List.mem_range.1 hj
    have := (putsLow_receiveByte tUs (h j hj) (readAck j n)).append (putsLow_mw (addrOf j) (assembled (bs j)))
    rwa [List.append_nil, ackLevel_readAck hj] at this
  have := read_transaction (tUs := tUs) (tail := []) ((putsLow_sendByte tUs (addrByte addr 1) 0).append hbytes) rfl
  simpa [readEvents] using this

end Sys2Proof.Machine
end

section
/-! PROOF. What a list of events does to the state, and runs that perform a list of events, one step each (00_scope R9,
20_memory R56): the ground of every statement about a whole command. -/

namespace Sys2Proof.Machine

/-! The state after a list of events. -/

/-- The state after one event of the port in focus: what the primitive that appends it does, POS and the working registers
aside (20_memory R56). -/
def State.afterOne (e : Event) (s : State) : State :=
  match e with
  | .w l v => s.setLine l v
  | .r _ _ => s.drawn.log e
  | .mw a v => ({ s with mem := memPut a v s.mem }).log e
  | .d _ | .mr _ _ | .g _ => s.log e

/-- The state after a list of events, oldest first. -/
def State.after (evs : List Event) (s : State) : State := evs.foldl (fun s e => s.afterOne e) s

@[simp] theorem State.after_nil (s : State) : s.after [] = s := rfl

theorem State.after_cons (e : Event) (evs : List Event) (s : State) : s.after (e :: evs) = (s.afterOne e).after evs := rfl

theorem State.after_append (e f : List Event) (s : State) : s.after (e ++ f) = (s.after e).after f := List.foldl_append

/-- The levels a list of events read, oldest first. -/
def levelsRead (evs : List Event) : List Level := evs.filterMap fun e => match e with | .r _ v => some v | _ => none

/-- The bytes a list of events stored in caller memory, oldest first. -/
def bytesStored (evs : List Event) : List Host.Cell := evs.filterMap fun e => match e with | .mw a v => some (a, v) | _ => none

/-- Events write the drive levels, caller memory, the history and the environment's part of the port, nothing else. -/
theorem State.after_eq (evs : List Event) (s : State) : ∃ scl sda env presented, s.after evs =
    { s with
      mem := (bytesStored evs).foldl (fun m c => memPut c.1 c.2 m) s.mem
      cur := { s.cur with scl := scl, sda := sda, env := env, presented := presented, history := s.cur.history ++ evs } } := by
  induction evs generalizing s with
  | nil => exact ⟨s.cur.scl, s.cur.sda, s.cur.env, s.cur.presented, by simp [bytesStored]⟩
  | cons e t ih =>
    obtain ⟨scl, sda, env, presented, h⟩ := ih (s.afterOne e)
    refine ⟨scl, sda, env, presented, ?_⟩
    rw [State.after_cons, h]
    cases e with
    | w l v => cases l <;> simp [State.afterOne, State.setLine, PortState.setDrive, bytesStored]
    | r l v =>
      obtain ⟨env', presented', hd⟩ := drawn_eq s
      simp [State.afterOne, hd, State.log, bytesStored]
    | d _ | mr _ _ | mw _ _ | g _ => simp [State.afterOne, State.log, bytesStored]

theorem sameAgents_after (evs : List Event) (s : State) : SameAgents s (s.after evs) := by
  obtain ⟨scl, sda, env, presented, h⟩ := State.after_eq evs s
  simp [SameAgents, h]

@[simp] theorem State.after_cfg (evs : List Event) (s : State) : (s.after evs).cfg = s.cfg := by
  obtain ⟨scl, sda, env, presented, h⟩ := State.after_eq evs s
  rw [h]

@[simp] theorem State.after_sel (evs : List Event) (s : State) : (s.after evs).sel = s.sel := by
  obtain ⟨scl, sda, env, presented, h⟩ := State.after_eq evs s
  rw [h]

@[simp] theorem State.after_cur_work (evs : List Event) (s : State) : (s.after evs).cur.work = s.cur.work := by
  obtain ⟨scl, sda, env, presented, h⟩ := State.after_eq evs s
  rw [h]

@[simp] theorem State.after_cur_history (evs : List Event) (s : State) :
    (s.after evs).cur.history = s.cur.history ++ evs := by
  obtain ⟨scl, sda, env, presented, h⟩ := State.after_eq evs s
  rw [h]

theorem State.after_mem (evs : List Event) (s : State) :
    (s.after evs).mem = (bytesStored evs).foldl (fun m c => memPut c.1 c.2 m) s.mem := by
  obtain ⟨scl, sda, env, presented, h⟩ := State.after_eq evs s
  rw [h]

/-- A line or a delay is what its event does. -/
theorem perform_eq_afterOne (a : LineAct) (s : State) : a.perform s = s.afterOne (a.event s.cfg.tUs) := by
  cases a <;> rfl

theorem performAll_eq_after (code : List LineAct) (s : State) : performAll code s = s.after (lineEvents s.cfg.tUs code) := by
  induction code generalizing s with
  | nil => rfl
  | cons a t ih =>
    have hcfg : (a.perform s).cfg = s.cfg := by rw [perform_eq]
    have hrest := ih (a.perform s)
    rw [hcfg] at hrest
    exact hrest.trans (congrArg _ (perform_eq_afterOne a s))

/-- GetLine is what its event does, SAMPLE aside. -/
theorem getLine_upTo_afterOne (l : Line) (s : State) : UpTo (s.getLine l) (s.afterOne (.r l (s.level l))) := by
  unfold State.getLine
  rw [lineByteR_lineByteW]
  exact upTo_log _ (upTo_setWork _ _)

/-! What agrees up to POS and the working registers. -/

theorem UpTo.symm {t u : State} (h : UpTo t u) : UpTo u t := by
  unfold UpTo at h ⊢
  rw [h]

theorem upTo_afterOne {t u : State} (e : Event) (h : UpTo t u) : UpTo (t.afterOne e) (u.afterOne e) := by
  unfold UpTo at h
  rw [h]
  cases e with
  | w l v => cases l <;> rfl
  | r l v => unfold UpTo State.afterOne State.drawn; cases u.cur.env <;> rfl
  | d _ | mr _ _ | mw _ _ | g _ => rfl

theorem upTo_after {t u : State} (evs : List Event) (h : UpTo t u) : UpTo (t.after evs) (u.after evs) := by
  induction evs generalizing t u with
  | nil => exact h
  | cons e rest ih => exact ih (upTo_afterOne e h)

theorem UpTo.cfg {t u : State} (h : UpTo t u) : t.cfg = u.cfg := by
  unfold UpTo at h
  rw [h]

theorem UpTo.sel {t u : State} (h : UpTo t u) : t.sel = u.sel := by
  unfold UpTo at h
  rw [h]

theorem UpTo.len {t u : State} (h : UpTo t u) : t.cur.len = u.cur.len := by
  unfold UpTo at h
  rw [h]

/-! The levels the environment presents. -/

/-- The environment of the port in focus presents these levels at its next reads (10_state R22, R23). -/
def Presents (s : State) (vs : List Level) : Prop := nextLevels vs.length s = vs

theorem presents_cons {s : State} {v : Level} {vs : List Level} :
    Presents s (v :: vs) ↔ s.envLevel = v ∧ Presents s.drawn vs := by
  simp [Presents, nextLevels]

theorem presents_congr {s t : State} (hc : s.cfg = t.cfg) (hp : s.sel = t.sel) (he : s.cur.env = t.cur.env)
    (hd : s.cur.presented = t.cur.presented) {vs : List Level} : Presents s vs ↔ Presents t vs := by
  rw [Presents, nextLevels_congr hc hp he hd, Presents]

theorem UpTo.presents {t u : State} (h : UpTo t u) {vs : List Level} : Presents t vs ↔ Presents u vs := by
  unfold UpTo at h
  exact presents_congr (by rw [h]) (by rw [h]) (by rw [h]) (by rw [h])

/-- Each level read is one the environment has presented. -/
theorem Presents.after {evs : List Event} {vs : List Level} {s : State} (h : Presents s (levelsRead evs ++ vs)) :
    Presents (s.after evs) vs := by
  induction evs generalizing s with
  | nil => exact h
  | cons e t ih =>
    refine ih (s := s.afterOne e) ?_
    cases e with
    | w l v =>
      have hrest : Presents s (levelsRead t ++ vs) := h
      cases l <;> refine (presents_congr ?_ ?_ ?_ ?_).1 hrest <;> rfl
    | r l v =>
      have hrest : Presents s.drawn (levelsRead t ++ vs) := (presents_cons.1 h).2
      refine (presents_congr ?_ ?_ ?_ ?_).1 hrest <;> rfl
    | d _ | mr _ _ | mw _ _ | g _ =>
      have hrest : Presents s (levelsRead t ++ vs) := h
      refine (presents_congr ?_ ?_ ?_ ?_).1 hrest <;> rfl

/-! Runs. -/

/-- From s the command i performs these events, a step each, and is then at t, which is s after them but for POS and the
working registers. -/
structure Performs (i : Instr) (evs : List Event) (s t : State) : Prop where
  run : execN i evs.length s = .next t
  upTo : UpTo t (s.after evs)

/-- From s the command i performs these events and then goes on by `ret`, of the working registers P before it does. -/
def Calls (i : Instr) (evs : List Event) (ret : State → State) (s : State) (P : Work → Prop) : Prop :=
  ∃ u, execN i evs.length s = .next (ret u) ∧ UpTo u (s.after evs) ∧ P u.cur.work

theorem performs_one {i : Instr} {e : Event} {s t : State} (h : exec i s = .next t) (hu : UpTo t (s.afterOne e)) :
    Performs i [e] s t := ⟨(execN_one i s).trans h, hu⟩

theorem Performs.trans {i : Instr} {e f : List Event} {s t u : State} (h : Performs i e s t) (k : Performs i f t u) :
    Performs i (e ++ f) s u where
  run := by rw [List.length_append, execN_add h.run, k.run]
  upTo := by
    rw [State.after_append]
    exact k.upTo.trans (upTo_after f h.upTo)

theorem Performs.calls {i : Instr} {e f : List Event} {ret : State → State} {s t : State} {P : Work → Prop}
    (h : Performs i e s t) (k : Calls i f ret t P) : Calls i (e ++ f) ret s P := by
  obtain ⟨u, hrun, hu, hP⟩ := k
  refine ⟨u, by rw [List.length_append, execN_add h.run, hrun], ?_, hP⟩
  rw [State.after_append]
  exact hu.trans (upTo_after f h.upTo)

theorem Calls.performs {i : Instr} {evs : List Event} {ret : State → State} {s : State} {P : Work → Prop}
    (h : Calls i evs ret s P) (hr : Silent ret) :
    ∃ u, Performs i evs s (ret u) ∧ UpTo u (s.after evs) ∧ P u.cur.work := by
  obtain ⟨u, hrun, hu, hP⟩ := h
  exact ⟨u, ⟨hrun, (hr u).trans hu⟩, hu, hP⟩

/-- One procedure after another. -/
theorem Calls.bind {i : Instr} {e f : List Event} {go ret : State → State} {s : State} {P Q : Work → Prop}
    (h : Calls i e go s P) (hgo : Silent go)
    (k : ∀ u, UpTo u (s.after e) → P u.cur.work → Calls i f ret (go u) Q) : Calls i (e ++ f) ret s Q := by
  obtain ⟨u, hp, hu, hP⟩ := h.performs hgo
  exact hp.calls (k u hu hP)

/-- What follows a procedure is, of the working registers it leaves, another way of going on. -/
theorem Calls.goOn {i : Instr} {evs : List Event} {go ret : State → State} {s : State} {P Q : Work → Prop}
    (h : Calls i evs go s P)
    (k : ∀ u, UpTo u (s.after evs) → P u.cur.work → ∃ v, go u = ret v ∧ UpTo v u ∧ Q v.cur.work) :
    Calls i evs ret s Q := by
  obtain ⟨u, hrun, hu, hP⟩ := h
  obtain ⟨v, hret, hv, hQ⟩ := k u hu hP
  exact ⟨v, hret ▸ hrun, hv.trans hu, hQ⟩

@[simp] theorem lineEvents_length (tUs : Nat) (code : List LineAct) : (lineEvents tUs code).length = code.length :=
  List.length_map _

/-- A straight line of pseudocode, performed to its end. -/
theorem calls_line {i : Instr} {code : List LineAct} {here : Nat → Pos} {ret : State → State} {s : State}
    (hpos : s.cur.pos = here 0) (hc : code ≠ [])
    (hx : ∀ k u, u.cur.pos = here k → u.cur.work = s.cur.work → u.cur.len = s.cur.len →
      exec i u = lineStep code here ret k u) :
    Calls i (lineEvents s.cfg.tUs code) ret s (· = s.cur.work) := by
  have hrun := run_line (ret := ret) hpos hc fun k u _ hu => hx k u (by rw [hu]; rfl) (by simp [hu, performAll_eq])
    (by simp [hu, performAll_eq])
  rw [performAll_eq_after] at hrun
  exact ⟨(s.after _).goto (here (code.length - 1)), by rwa [lineEvents_length], upTo_goto _ _, State.after_cur_work _ s⟩

end Sys2Proof.Machine
end

section
/-! PROOF. Runs of send_byte and receive_byte, wherever they are called from (40_bit_master R114, R115; 41_byte_master R140 to
R142). -/

namespace Sys2Proof.Machine

/-! The levels a list of events reads, and the bytes it stores. -/

@[simp] theorem levelsRead_append (e f : List Event) : levelsRead (e ++ f) = levelsRead e ++ levelsRead f :=
  List.filterMap_append

@[simp] theorem bytesStored_append (e f : List Event) : bytesStored (e ++ f) = bytesStored e ++ bytesStored f :=
  List.filterMap_append

@[simp] theorem levelsRead_r (l : Line) (v : Level) (evs : List Event) : levelsRead (.r l v :: evs) = v :: levelsRead evs := rfl
@[simp] theorem levelsRead_mr (a : Nat) (v : Byte) (evs : List Event) : levelsRead (.mr a v :: evs) = levelsRead evs := rfl
@[simp] theorem levelsRead_mw (a : Nat) (v : Byte) (evs : List Event) : levelsRead (.mw a v :: evs) = levelsRead evs := rfl
@[simp] theorem levelsRead_g (e : DiagEvent) (evs : List Event) : levelsRead (.g e :: evs) = levelsRead evs := rfl
@[simp] theorem levelsRead_nil : levelsRead [] = [] := rfl

@[simp] theorem bytesStored_r (l : Line) (v : Level) (evs : List Event) : bytesStored (.r l v :: evs) = bytesStored evs := rfl
@[simp] theorem bytesStored_mr (a : Nat) (v : Byte) (evs : List Event) : bytesStored (.mr a v :: evs) = bytesStored evs := rfl
@[simp] theorem bytesStored_mw (a : Nat) (v : Byte) (evs : List Event) :
    bytesStored (.mw a v :: evs) = (a, v) :: bytesStored evs := rfl
@[simp] theorem bytesStored_g (e : DiagEvent) (evs : List Event) : bytesStored (.g e :: evs) = bytesStored evs := rfl
@[simp] theorem bytesStored_nil : bytesStored [] = [] := rfl

@[simp] theorem levelsRead_lineEvents (tUs : Nat) (code : List LineAct) : levelsRead (lineEvents tUs code) = [] := by
  simp only [levelsRead, lineEvents, List.filterMap_map, List.filterMap_eq_nil_iff]
  intro a _
  cases a <;> rfl

@[simp] theorem bytesStored_lineEvents (tUs : Nat) (code : List LineAct) : bytesStored (lineEvents tUs code) = [] := by
  simp only [bytesStored, lineEvents, List.filterMap_map, List.filterMap_eq_nil_iff]
  intro a _
  cases a <;> rfl

theorem levelsRead_flatMap {α : Type} (l : List α) (f : α → List Event) :
    levelsRead (l.flatMap f) = l.flatMap fun a => levelsRead (f a) := List.filterMap_flatMap ..

theorem bytesStored_flatMap {α : Type} (l : List α) (f : α → List Event) :
    bytesStored (l.flatMap f) = l.flatMap fun a => bytesStored (f a) := List.filterMap_flatMap ..

@[simp] theorem levelsRead_sendByteEvents (tUs : Nat) (d : Byte) (v : Level) : levelsRead (sendByteEvents tUs d v) = [v] := by
  simp [sendByteEvents, levelsRead_flatMap]

@[simp] theorem bytesStored_sendByteEvents (tUs : Nat) (d : Byte) (v : Level) : bytesStored (sendByteEvents tUs d v) = [] := by
  simp [sendByteEvents, bytesStored_flatMap]

@[simp] theorem levelsRead_polls (k : Nat) (v : Level) :
    levelsRead (List.replicate k (.r .scl v)) = List.replicate k v := by
  induction k with
  | zero => rfl
  | succ k ih => rw [List.replicate_succ, levelsRead_r, ih, List.replicate_succ]

@[simp] theorem bytesStored_polls (k : Nat) (v : Level) : bytesStored (List.replicate k (.r .scl v)) = [] := by
  induction k with
  | zero => rfl
  | succ k ih => rw [List.replicate_succ, bytesStored_r, ih]

@[simp] theorem levelsRead_receiveBitEvents (tUs k : Nat) (b : Level) :
    levelsRead (receiveBitEvents tUs k b) = receiveBitEnv (k, b) := by
  simp [receiveBitEvents, receiveBitEnv]

@[simp] theorem bytesStored_receiveBitEvents (tUs k : Nat) (b : Level) : bytesStored (receiveBitEvents tUs k b) = [] := by
  simp [receiveBitEvents]

@[simp] theorem levelsRead_receiveByteEvents (tUs : Nat) (bits : List (Nat × Level)) (a : BitVec 1) :
    levelsRead (receiveByteEvents tUs bits a) = bits.flatMap receiveBitEnv := by
  simp [receiveByteEvents, levelsRead_flatMap]

@[simp] theorem bytesStored_receiveByteEvents (tUs : Nat) (bits : List (Nat × Level)) (a : BitVec 1) :
    bytesStored (receiveByteEvents tUs bits a) = [] := by
  simp [receiveByteEvents, bytesStored_flatMap]

/-! Where a procedure runs. -/

/-- At the positions `here` the command of s does what `body` says, as long as LEN, IDX and PHASE are those of s. -/
def RunsAt {α : Type} (i : Instr) (here : α → Pos) (body : α → State → Out) (s : State) : Prop :=
  ∀ a u, u.cur.pos = here a → u.cur.len = s.cur.len → u.cur.work.idx = s.cur.work.idx →
    u.cur.work.phase = s.cur.work.phase → exec i u = body a u

section
variable {α : Type} {i : Instr} {here : α → Pos} {body : α → State → Out} {s : State}

theorem RunsAt.congr (h : RunsAt i here body s) {t : State} (hlen : t.cur.len = s.cur.len)
    (hidx : t.cur.work.idx = s.cur.work.idx) (hphase : t.cur.work.phase = s.cur.work.phase) : RunsAt i here body t :=
  fun a u hp hl hi hph => h a u hp (hl.trans hlen) (hi.trans hidx) (hph.trans hphase)

/-- A straight line of pseudocode within a procedure. -/
theorem RunsAt.line (h : RunsAt i here body s) {code : List LineAct} {ret : State → State} (place : Nat → α)
    (hpos : s.cur.pos = here (place 0)) (hc : code ≠ [])
    (hb : ∀ k u, u.cur.work = s.cur.work → body (place k) u = lineStep code (fun j => here (place j)) ret k u) :
    Calls i (lineEvents s.cfg.tUs code) ret s (· = s.cur.work) :=
  calls_line (here := fun j => here (place j)) hpos hc fun k u hp hw hl =>
    (h _ u hp hl (by rw [hw]) (by rw [hw])).trans (hb k u hw)

end

/-! What a state u, reached by events up to POS and the working registers, has of s. -/

theorem UpTo.after_cfg {u s : State} {evs : List Event} (h : UpTo u (s.after evs)) : u.cfg = s.cfg :=
  h.cfg.trans (State.after_cfg evs s)

theorem UpTo.after_sel {u s : State} {evs : List Event} (h : UpTo u (s.after evs)) : u.sel = s.sel :=
  h.sel.trans (State.after_sel evs s)

theorem UpTo.after_len {u s : State} {evs : List Event} (h : UpTo u (s.after evs)) : u.cur.len = s.cur.len := by
  obtain ⟨-, hlen, -⟩ := (sameAgents_after evs s).of_upTo h
  exact hlen

theorem UpTo.scl {t u : State} (h : UpTo t u) : t.cur.scl = u.cur.scl := h.drive .scl

theorem UpTo.sda {t u : State} (h : UpTo t u) : t.cur.sda = u.cur.sda := h.drive .sda

theorem UpTo.presents_after {u s : State} {evs : List Event} {vs : List Level} (h : UpTo u (s.after evs))
    (hs : Presents s (levelsRead evs ++ vs)) : Presents u vs := h.presents.2 hs.after

theorem presents_singleton {s : State} {v : Level} : Presents s [v] ↔ s.envLevel = v :=
  presents_cons.trans (and_iff_left rfl)

theorem nextLevels_length (n : Nat) (s : State) : (nextLevels n s).length = n := by
  induction n generalizing s with
  | zero => rfl
  | succ n ih => rw [nextLevels, List.length_cons, ih]

theorem Presents.left {s : State} {vs ws : List Level} (h : Presents s (vs ++ ws)) : Presents s vs := by
  rw [Presents, List.length_append, nextLevels_add] at h
  exact (List.append_inj h (nextLevels_length _ _)).1

/-! send_byte (41_byte_master R141). -/

theorem nextSendBit_more {site : SendSite} {u : State} (h : u.cur.work.bitcnt.toNat < 7) :
    nextSendBit site u = (u.setWork fun w => { w with bitcnt := w.bitcnt + 1 }).goto (.send site (.bit 0)) :=
  if_pos (show (u.cur.work.bitcnt + 1).toNat < 8 by bv_omega)

theorem nextSendBit_last {site : SendSite} {u : State} (h : u.cur.work.bitcnt.toNat = 7) :
    nextSendBit site u = (u.setWork fun w => { w with bitcnt := 8 }).goto (.send site (.release 0)) := by
  have hcnt : u.cur.work.bitcnt = 7 := BitVec.eq_of_toNat_eq h
  simp [nextSendBit, hcnt, State.setWork]

section
variable {i : Instr} {site : SendSite} {ret : State → State}

theorem calls_sendBit {s : State} (h : RunsAt i (.send site) (sendByteStep site ret) s)
    (hpos : s.cur.pos = .send site (.bit 0)) :
    Calls i (lineEvents s.cfg.tUs (sendBitCode (wireBit s.cur.work.shift s.cur.work.bitcnt.toNat))) (nextSendBit site) s
      (· = s.cur.work) :=
  h.line .bit hpos (List.cons_ne_nil _ _) fun k u hw => by rw [sendByteStep, hw]

/-- The bits of the byte from the one BITCNT names on, most significant first. -/
theorem performs_sendBits {m j : Nat} {s : State} (h : RunsAt i (.send site) (sendByteStep site ret) s)
    (hj : j + m = 7) (hpos : s.cur.pos = .send site (.bit 0)) (hcnt : s.cur.work.bitcnt.toNat = j) :
    ∃ t, Performs i ((List.range' j (m + 1)).flatMap fun k =>
        lineEvents s.cfg.tUs (sendBitCode (wireBit s.cur.work.shift k))) s t
      ∧ t.cur.pos = .send site (.release 0) ∧ t.cur.work = { s.cur.work with bitcnt := 8 } := by
  induction m generalizing j s with
  | zero =>
    obtain ⟨u, hp, hu, hw⟩ := (calls_sendBit h hpos).performs (silent_nextSendBit site)
    rw [nextSendBit_last (by rw [hw]; omega)] at hp
    exact ⟨(u.setWork fun w => { w with bitcnt := 8 }).goto (.send site (.release 0)), by simpa [hcnt] using hp, rfl,
      by simp [hw]⟩
  | succ m ih =>
    obtain ⟨u, hp, hu, hw⟩ := (calls_sendBit h hpos).performs (silent_nextSendBit site)
    rw [nextSendBit_more (by rw [hw]; omega)] at hp
    obtain ⟨t, ht, htpos, htw⟩ := ih (j := j + 1)
      (s := (u.setWork fun w => { w with bitcnt := w.bitcnt + 1 }).goto (.send site (.bit 0)))
      (h.congr hu.after_len (by simp [hw]) (by simp [hw])) (by omega) rfl (by simp [hw]; bv_omega)
    refine ⟨t, ?_, htpos, by simp [htw, hw]⟩
    have hall := hp.trans ht
    simpa [List.range'_succ, hcnt, hw, hu.after_cfg] using hall

/-- The acknowledge sample, SDA released (41_byte_master R141). -/
theorem performs_sample {s : State} {v : Level} (h : RunsAt i (.send site) (sendByteStep site ret) s)
    (hpos : s.cur.pos = .send site .sample) (hsda : s.cur.sda = 1) (hv : s.envLevel = v) :
    Performs i [.r .sda v] s ((s.getLine .sda).goto (.send site (.pulse 0))) := by
  have hlevel : s.level .sda = v := (level_of_released (l := .sda) hsda).trans hv
  refine performs_one (h .sample s hpos rfl rfl rfl) ((upTo_goto _ _).trans ?_)
  rw [← hlevel]
  exact getLine_upTo_afterOne .sda s

theorem after_releaseCode_sda (tUs : Nat) (s : State) : (s.after (lineEvents tUs releaseCode)).cur.sda = 1 := by
  simp [State.after, lineEvents, releaseCode, LineAct.event, State.afterOne]

/-- After the bits: SDA released, the acknowledge sample v, and the ninth clock (41_byte_master R140, R141). -/
theorem calls_acknowledge {s : State} {v : Level} (h : RunsAt i (.send site) (sendByteStep site ret) s)
    (hpos : s.cur.pos = .send site (.release 0)) (hv : s.envLevel = v) :
    Calls i (lineEvents s.cfg.tUs releaseCode ++ (.r .sda v :: lineEvents s.cfg.tUs pulse9Code)) ret s
      (· = { s.cur.work with sample := v, acked := ackOf v }) := by
  have hrelease : Calls i (lineEvents s.cfg.tUs releaseCode) (State.goto (.send site .sample)) s (· = s.cur.work) :=
    h.line .release hpos (List.cons_ne_nil _ _) fun k u hw => rfl
  refine hrelease.bind (silent_goto _) fun u hu hw => ?_
  have hsda : u.cur.sda = 1 := hu.sda.trans (after_releaseCode_sda _ s)
  have henv : u.envLevel = v :=
    presents_singleton.1 (hu.presents_after (by rw [levelsRead_lineEvents]; exact presents_singleton.2 hv))
  have hrun : RunsAt i (.send site) (sendByteStep site ret) (u.goto (.send site .sample)) :=
    h.congr hu.after_len (by simp [hw]) (by simp [hw])
  have hlevel : (u.goto (.send site .sample)).level .sda = v := (level_of_released (l := .sda) hsda).trans henv
  have hclock := (hrun.congr (t := ((u.goto (.send site .sample)).getLine .sda).goto (.send site (.pulse 0)))
    (by simp) (by simp) (by simp)).line (code := pulse9Code)
    (ret := fun t => ret (t.setWork fun w => { w with acked := ackOf w.sample })) .pulse rfl (List.cons_ne_nil _ _)
    fun k x _ => rfl
  have hall := (performs_sample hrun rfl hsda henv).calls hclock
  simp only [State.goto_cfg, State.getLine_cfg, hu.after_cfg] at hall
  exact hall.goOn fun x _ hx => ⟨x.setWork fun w => { w with acked := ackOf w.sample }, rfl, upTo_setWork x _,
    by simp [hx, hw, hlevel]⟩

/-- send_byte from its first primitive: the bits, the acknowledge sample v and the ninth clock (41_byte_master R141). -/
theorem calls_sendByte {s : State} {d : Byte} {v : Level} (h : RunsAt i (.send site) (sendByteStep site ret) s)
    (hpos : s.cur.pos = .send site (.bit 0)) (hshift : s.cur.work.shift = d) (hcnt : s.cur.work.bitcnt = 0)
    (hv : s.envLevel = v) :
    Calls i (sendByteEvents s.cfg.tUs d v) ret s
      (· = { s.cur.work with bitcnt := 8, sample := v, acked := ackOf v }) := by
  obtain ⟨t, hbits, htpos, hw⟩ := performs_sendBits h (j := 0) (m := 7) rfl hpos (by rw [hcnt]; rfl)
  rw [← List.range_eq_range', hshift] at hbits
  have hsilent : levelsRead ((List.range 8).flatMap fun k => lineEvents s.cfg.tUs (sendBitCode (wireBit d k))) = [] := by
    simp [levelsRead_flatMap, List.flatMap_eq_nil_iff]
  have henv : t.envLevel = v :=
    presents_singleton.1 (hbits.upTo.presents_after (by rw [hsilent]; exact presents_singleton.2 hv))
  have hack := calls_acknowledge (h.congr hbits.upTo.after_len (by rw [hw]) (by rw [hw])) htpos henv
  rw [hbits.upTo.after_cfg, hw] at hack
  exact hbits.calls hack

end

/-! receive_bit (40_bit_master R115). -/

/-- A poll that reads 1 leaves the loop. -/
theorem pollStep_high {site : RecvSite} {s : State} (hscl : s.cur.scl = 1) (hv : s.envLevel = 1) :
    pollStep site s = (s.getLine .scl).goto (.recv site .sample) := by
  have hlevel : s.level .scl = 1 := (level_of_released (l := .scl) hscl).trans hv
  simp [pollStep, hlevel]

/-- A poll that reads 0 below the limit stays in the loop, having counted at most one poll (40_bit_master R116). -/
theorem pollStep_low {site : RecvSite} {s : State} (hscl : s.cur.scl = 1) (hv : s.envLevel = 0)
    (hlimit : ∀ m, s.cfg.stretchLimit = some m → s.cur.work.polls + 1 < m) :
    (pollStep site s).cur.pos = .recv site .poll ∧ (pollStep site s).cur.work.polls ≤ s.cur.work.polls + 1 := by
  have hlevel : s.level .scl = 0 := (level_of_released (l := .scl) hscl).trans hv
  cases hm : s.cfg.stretchLimit with
  | none => simp [pollStep, hlevel, hm]
  | some m =>
    have hne : s.cur.work.polls + 1 ≠ m := (hlimit m hm).ne
    simp [pollStep, hlevel, hm, hne]

/-- A poll is what its event does, SAMPLE and POLLS aside. -/
theorem pollStep_upTo_afterOne {site : RecvSite} {s : State} {v : Level} (hscl : s.cur.scl = 1) (hv : s.envLevel = v) :
    UpTo (pollStep site s) (s.afterOne (.r .scl v)) := by
  have hlevel : s.level .scl = v := (level_of_released (l := .scl) hscl).trans hv
  rw [← hlevel]
  exact (pollStep_upTo site s).trans (getLine_upTo_afterOne .scl s)

section
variable {i : Instr} {site : RecvSite} {ret : State → State} {body : RecvPos → State → Out} {s : State}

/-- The polls that read 0, within the limit. -/
theorem performs_polls {k : Nat} (h : RunsAt i (.recv site) body s) (hbody : body .poll = receiveBitStep site ret .poll)
    (hpos : s.cur.pos = .recv site .poll) (hscl : s.cur.scl = 1) (hv : Presents s (List.replicate k 0))
    (hlimit : ∀ m, s.cfg.stretchLimit = some m → s.cur.work.polls + k < m) :
    ∃ t, Performs i (List.replicate k (.r .scl 0)) s t ∧ t.cur.pos = .recv site .poll
      ∧ t.cur.scl = 1 ∧ t.cur.sda = s.cur.sda
      ∧ ∃ v p, t.cur.work = { s.cur.work with sample := v, polls := p } := by
  induction k generalizing s with
  | zero => exact ⟨s, ⟨rfl, UpTo.refl s⟩, hpos, hscl, rfl, _, _, rfl⟩
  | succ k ih =>
    obtain ⟨hlow, hrest⟩ := presents_cons.1 hv
    have hstep : exec i s = .next (pollStep site s) := by rw [h .poll s hpos rfl rfl rfl, hbody]; rfl
    have hup := pollStep_upTo_afterOne (site := site) hscl hlow
    have hone := performs_one hstep hup
    obtain ⟨hpos', hpolls⟩ := pollStep_low (site := site) hscl hlow fun m hm => by have := hlimit m hm; omega
    have hwork := pollStep_work site s
    obtain ⟨t, hperf, htpos, htscl, htsda, v, p, htw⟩ := ih (s := pollStep site s)
      (h.congr hone.upTo.after_len (by rw [hwork]) (by rw [hwork])) hpos' ((pollStep_drive site s .scl).trans hscl)
      (hone.upTo.presents_after hv) fun m hm => by
        have := hlimit m (hone.upTo.after_cfg ▸ hm)
        omega
    refine ⟨t, hone.trans hperf, htpos, htscl, htsda.trans (pollStep_drive site s .sda), v, p, ?_⟩
    rw [htw, hwork]

theorem after_raiseCode_released (tUs : Nat) (s : State) :
    (s.after (lineEvents tUs raiseCode)).cur.scl = 1 ∧ (s.after (lineEvents tUs raiseCode)).cur.sda = 1 := by
  simp [State.after, lineEvents, raiseCode, LineAct.event, State.afterOne]

/-- The poll that reads 1, the sample b right after it, and the fall of SCL (40_bit_master R115). -/
theorem calls_sampledBit {b : Level} (h : RunsAt i (.recv site) body s)
    (hbody : ∀ p, (∀ j, p ≠ .ack j) → body p = receiveBitStep site ret p) (hpos : s.cur.pos = .recv site .poll)
    (hscl : s.cur.scl = 1) (hsda : s.cur.sda = 1) (hv : Presents s [1, b]) :
    Calls i (.r .scl 1 :: .r .sda b :: lineEvents s.cfg.tUs lowerCode) ret s
      (· = { s.cur.work with sample := b, polls := s.cur.work.polls }) := by
  obtain ⟨hhigh, -⟩ := presents_cons.1 hv
  have hpoll : exec i s = .next ((s.getLine .scl).goto (.recv site .sample)) := by
    rw [h .poll s hpos rfl rfl rfl, hbody _ (by simp), receiveBitStep, pollStep_high hscl hhigh]
  have hone := performs_one hpoll (pollStep_high (site := site) hscl hhigh ▸ pollStep_upTo_afterOne hscl hhigh)
  generalize hu : (s.getLine .scl).goto (.recv site .sample) = u at hone
  have hw : u.cur.work = { s.cur.work with sample := u.cur.work.sample } := by simp [← hu]
  have hrun : RunsAt i (.recv site) body u := h.congr hone.upTo.after_len (by rw [hw]) (by rw [hw])
  have hlevel : u.level .sda = b := by
    rw [level_of_released (l := .sda) (by simp [← hu, PortState.drive, hsda])]
    exact presents_singleton.1 (hone.upTo.presents_after hv)
  have hsample : exec i u = .next ((u.getLine .sda).goto (.recv site (.lower 0))) := by
    rw [hrun .sample u (by rw [← hu]; rfl) rfl rfl rfl, hbody _ (by simp)]; rfl
  have htwo := performs_one hsample (e := .r .sda b) ((upTo_goto _ _).trans (hlevel ▸ getLine_upTo_afterOne .sda u))
  have hlower := (hrun.congr (t := (u.getLine .sda).goto (.recv site (.lower 0))) (by simp) (by simp) (by simp)).line
    (code := lowerCode) (ret := ret) .lower rfl (List.cons_ne_nil _ _) fun j x _ => by rw [hbody _ (by simp)]; rfl
  have hall := (hone.trans htwo).calls hlower
  simp only [State.goto_cur_work, State.getLine_cur_work, hlevel] at hall
  rw [hw] at hall
  simpa [hone.upTo.after_cfg] using hall

/-- receive_bit from its first primitive: the rise of SCL, k polls at 0, one at 1, the bit b, the fall of SCL
(40_bit_master R115). -/
theorem calls_receiveBit {k : Nat} {b : Level} (h : RunsAt i (.recv site) body s)
    (hbody : ∀ p, (∀ j, p ≠ .ack j) → body p = receiveBitStep site ret p) (hpos : s.cur.pos = .recv site (.raise 0))
    (hv : Presents s (receiveBitEnv (k, b))) (hlimit : ∀ m, s.cfg.stretchLimit = some m → k < m) :
    Calls i (receiveBitEvents s.cfg.tUs k b) ret s
      fun w => ∃ p, w = { s.cur.work with sample := b, polls := p } := by
  have hraise := h.line (code := raiseCode)
    (ret := fun t => (t.setWork fun w => { w with polls := 0 }).goto (.recv site .poll)) .raise hpos (List.cons_ne_nil _ _)
    fun j u _ => by rw [hbody _ (by simp)]; rfl
  refine hraise.bind (silent_work_goto _ _) fun u hu huw => ?_
  obtain ⟨hscl, hsda⟩ := after_raiseCode_released s.cfg.tUs s
  have hpresents : Presents u (List.replicate k 0 ++ [1, b]) := hu.presents_after (by rw [levelsRead_lineEvents]; exact hv)
  obtain ⟨x, hpolls, hxpos, hxscl, hxsda, v, p, hxw⟩ := performs_polls (k := k) (ret := ret)
    (s := (u.setWork fun w => { w with polls := 0 }).goto (.recv site .poll))
    (h.congr hu.after_len (by simp [huw]) (by simp [huw])) (hbody _ (by simp)) rfl (hu.scl.trans hscl)
    ((silent_work_goto _ _ u).presents.2 hpresents.left) (by simpa [hu.after_cfg] using hlimit)
  have hpresents' : Presents x [1, b] :=
    hpolls.upTo.presents_after (by simpa using (silent_work_goto _ _ u).presents.2 hpresents)
  have hrun : RunsAt i (.recv site) body x :=
    h.congr (hpolls.upTo.after_len.trans hu.after_len) (by simp [hxw, huw]) (by simp [hxw, huw])
  have hsampled := hpolls.calls
    (calls_sampledBit (ret := ret) hrun hbody hxpos hxscl (hxsda.trans (hu.sda.trans hsda)) hpresents')
  have htUs : x.cfg.tUs = s.cfg.tUs := congrArg Params.tUs (hpolls.upTo.after_cfg.trans hu.after_cfg)
  rw [htUs] at hsampled
  refine hsampled.goOn fun y hy hyw => ⟨y, rfl, UpTo.refl y, p, ?_⟩
  simp [hyw, hxw, huw]

end

/-! receive_byte (41_byte_master R142). -/

theorem nextReceiveBit_more {site : RecvSite} {u : State} (h : u.cur.work.bitcnt.toNat < 7) :
    nextReceiveBit site u = (u.setWork fun w =>
      { w with shift := shiftIn w.shift w.sample, bitcnt := w.bitcnt + 1 }).goto (.recv site (.raise 0)) :=
  if_pos (show (u.cur.work.bitcnt + 1).toNat < 8 by bv_omega)

theorem nextReceiveBit_last {site : RecvSite} {u : State} (h : u.cur.work.bitcnt.toNat = 7) :
    nextReceiveBit site u = (u.setWork fun w =>
      { w with shift := shiftIn w.shift w.sample, bitcnt := w.bitcnt + 1 }).goto (.recv site (.ack 0)) :=
  if_neg (show ¬ (u.cur.work.bitcnt + 1).toNat < 8 by bv_omega)

section
variable {i : Instr} {site : RecvSite} {ack : BitVec 1} {ret : State → State} {s : State}

theorem receiveByteStep_bit {p : RecvPos} (hp : ∀ j, p ≠ .ack j) :
    receiveByteStep site ack ret p = receiveBitStep site (nextReceiveBit site) p := by
  cases p with
  | ack j => exact absurd rfl (hp j)
  | _ => rfl

/-- The bits of the byte from the one BITCNT names on, each within the limit. -/
theorem performs_receiveBits {b : Nat × Level} {bits : List (Nat × Level)}
    (h : RunsAt i (.recv site) (receiveByteStep site ack ret) s) (hpos : s.cur.pos = .recv site (.raise 0))
    (hcnt : s.cur.work.bitcnt.toNat + bits.length = 7) (hv : Presents s ((b :: bits).flatMap receiveBitEnv))
    (hlimit : withinLimit s (b :: bits)) :
    ∃ t, Performs i ((b :: bits).flatMap fun c => receiveBitEvents s.cfg.tUs c.1 c.2) s t
      ∧ t.cur.pos = .recv site (.ack 0) ∧ t.cur.work.shift = (b :: bits).foldl (fun d c => shiftIn d c.2) s.cur.work.shift
      ∧ t.cur.work.idx = s.cur.work.idx ∧ t.cur.work.phase = s.cur.work.phase := by
  induction bits generalizing b s with
  | nil =>
    obtain ⟨u, hp, hu, p, hw⟩ := (calls_receiveBit h (fun p hp => receiveByteStep_bit hp) hpos (by simpa using hv)
      fun m hm => hlimit m hm b List.mem_cons_self).performs (silent_nextReceiveBit site)
    rw [nextReceiveBit_last (by simpa [hw] using hcnt)] at hp
    exact ⟨_, by simpa using hp, rfl, by simp [hw], by simp [hw], by simp [hw]⟩
  | cons c rest ih =>
    rw [List.flatMap_cons] at hv
    obtain ⟨u, hp, hu, p, hw⟩ := (calls_receiveBit h (fun p hp => receiveByteStep_bit hp) hpos hv.left
      fun m hm => hlimit m hm b List.mem_cons_self).performs (silent_nextReceiveBit site)
    rw [List.length_cons] at hcnt
    rw [nextReceiveBit_more (by simp [hw]; omega)] at hp
    obtain ⟨t, ht, htpos, htshift, htidx, htphase⟩ := ih
      (h.congr hp.upTo.after_len (by simp [hw]) (by simp [hw])) rfl (by simp [hw]; bv_omega)
      (hp.upTo.presents_after (by simpa using hv))
      fun m hm d hd => hlimit m (hp.upTo.after_cfg ▸ hm) d (List.mem_cons_of_mem _ hd)
    rw [hp.upTo.after_cfg] at ht
    refine ⟨t, ?_, htpos, by simp [htshift, hw], by simp [htidx, hw], by simp [htphase, hw]⟩
    rw [List.flatMap_cons]
    exact hp.trans ht

/-- receive_byte from its first primitive: eight bits, each after its polls, the acknowledge level and the ninth clock
(41_byte_master R142). -/
theorem calls_receiveByte {bits : List (Nat × Level)} (h : RunsAt i (.recv site) (receiveByteStep site ack ret) s)
    (hpos : s.cur.pos = .recv site (.raise 0)) (hshift : s.cur.work.shift = 0) (hcnt : s.cur.work.bitcnt = 0)
    (hlen : bits.length = 8) (hv : Presents s (bits.flatMap receiveBitEnv)) (hlimit : withinLimit s bits) :
    Calls i (receiveByteEvents s.cfg.tUs bits ack) ret s
      fun w => w.shift = assembled bits ∧ w.idx = s.cur.work.idx ∧ w.phase = s.cur.work.phase := by
  obtain ⟨b, rest, rfl⟩ := List.exists_cons_of_length_eq_add_one hlen
  obtain ⟨t, hbits, htpos, htshift, htidx, htphase⟩ :=
    performs_receiveBits h hpos (by simpa [hcnt] using hlen) hv hlimit
  have hack := (h.congr hbits.upTo.after_len htidx htphase).line (code := ackCode ack) (ret := ret) .ack htpos
    (List.cons_ne_nil _ _) fun k u _ => rfl
  rw [hbits.upTo.after_cfg] at hack
  refine hbits.calls (hack.goOn fun u _ hw => ⟨u, rfl, UpTo.refl u, ?_⟩)
  exact ⟨by rw [hw, htshift, hshift, assembled], by rw [hw, htidx], by rw [hw, htphase]⟩

end

end Sys2Proof.Machine
end

section
/-! PROOF. Runs of one transaction, write or read, alone or as a phase of a composite read (42_buffer_master R161, R162;
60_exceptions R211, R212, R214). -/

namespace Sys2Proof.Machine

/-! Runs to the finish. -/

/-- From s the command i performs these events, a step each, and then finishes with r. -/
def Ends (i : Instr) (evs : List Event) (r : Word) (s : State) : Prop :=
  ∃ u, execN i (evs.length + 1) s = .next (u.finish r) ∧ UpTo u (s.after evs)

theorem Performs.finish {i : Instr} {evs : List Event} {r : Word} {s t : State} (h : Performs i evs s t)
    (hx : exec i t = .next (t.finish r)) : Ends i evs r s :=
  ⟨t, by rw [execN_add h.run, execN_one, hx], h.upTo⟩

theorem Performs.ends {i : Instr} {e f : List Event} {r : Word} {s t : State} (h : Performs i e s t) (k : Ends i f r t) :
    Ends i (e ++ f) r s := by
  obtain ⟨u, hrun, hu⟩ := k
  refine ⟨u, by rw [List.length_append, Nat.add_assoc, execN_add h.run, hrun], ?_⟩
  rw [State.after_append]
  exact hu.trans (upTo_after f h.upTo)

theorem Calls.ends {i : Instr} {e f : List Event} {go : State → State} {r : Word} {s : State} {P : Work → Prop}
    (h : Calls i e go s P) (hgo : Silent go) (k : ∀ u, UpTo u (s.after e) → P u.cur.work → Ends i f r (go u)) :
    Ends i (e ++ f) r s := by
  obtain ⟨u, hp, hu, hP⟩ := h.performs hgo
  exact hp.ends (k u hu hP)

/-! The parts of a transaction. -/

/-- As long as LEN and PHASE are those of s, the command of s does what `body` says. -/
def RunsAs (i : Instr) (body : State → Out) (s : State) : Prop :=
  ∀ u, u.cur.pos ≠ .entry → u.cur.pos ≠ .finish → u.cur.len = s.cur.len → u.cur.work.phase = s.cur.work.phase →
    exec i u = body u

theorem RunsAs.congr {i : Instr} {body : State → Out} {s t : State} (h : RunsAs i body s) (hlen : t.cur.len = s.cur.len)
    (hphase : t.cur.work.phase = s.cur.work.phase) : RunsAs i body t :=
  fun u he hf hl hp => h u he hf (hl.trans hlen) (hp.trans hphase)

theorem RunsAs.at {α : Type} {i : Instr} {body : State → Out} {s : State} (h : RunsAs i body s) {here : α → Pos}
    {part : α → State → Out} (hpart : ∀ a u, u.cur.pos = here a → body u = part a u)
    (hhere : ∀ a, here a ≠ .entry ∧ here a ≠ .finish) : RunsAt i here part s := fun a u hp hl _ hph => by
  obtain ⟨he, hf⟩ := hhere a
  rw [h u (hp ▸ he) (hp ▸ hf) hl hph, hpart a u hp]

/-- The parts that a write and a read transaction have in common: START, the address byte in this direction with `go` after
it, STOP with `ret` after it, and the failure of the address phase (42_buffer_master R160 to R162; 60_exceptions R211,
R214). -/
structure Transaction (body : State → Out) (addr : BitVec 7) (rw : BitVec 1) (go ret : State → State) : Prop where
  start : ∀ k u, u.cur.pos = .start k → body u = startStep (callSendByte .address (addrByte addr rw)) k u
  address : ∀ p u, u.cur.pos = .send .address p → body u = sendByteStep .address (afterAddress go) p u
  stop : ∀ k u, u.cur.pos = .stop .success k → body u = stopStep .success ret k u
  stopNack : ∀ k u, u.cur.pos = .stop .addrNack k → body u = stopStep .addrNack (State.goto .diagAddr) k u
  diag : ∀ u, u.cur.pos = .diagAddr → body u = raiseFailStep (.addrNack addr rw) u
  fail : ∀ u, u.cur.pos = .finishFail → body u = failFinishStep u

theorem transaction_write (addr : BitVec 7) (n : Nat) (data : Nat → Payload) (ret : State → State) :
    Transaction (writeStep addr n data ret) addr 0
      (fun t => nextPayload n data (t.setWork fun w => { w with idx := 0 })) ret := by
  constructor <;> intros <;> simp only [writeStep, *]

theorem transaction_read (addr : BitVec 7) (n : Nat) (ret : State → State) :
    Transaction (readStep addr n ret) addr 1 (fun t => nextReceived n (t.setWork fun w => { w with idx := 0 })) ret := by
  constructor <;> intros <;> simp only [readStep, *]

section
variable {i : Instr} {body : State → Out} {addr : BitVec 7} {rw : BitVec 1} {go ret : State → State} {s : State}

/-- START and the address byte, its acknowledge sample v. -/
theorem calls_address {v : Level} (h : RunsAs i body s) (T : Transaction body addr rw go ret) (hpos : s.cur.pos = .start 0)
    (hv : s.envLevel = v) :
    Calls i (startEvents s.cfg.tUs ++ sendByteEvents s.cfg.tUs (addrByte addr rw) v) (afterAddress go) s
      fun w => w.acked = ackOf v ∧ w.phase = s.cur.work.phase := by
  have hstart := (h.at T.start (by simp)).line (code := startCode) (ret := callSendByte .address (addrByte addr rw)) id hpos
    (List.cons_ne_nil _ _) fun k u _ => rfl
  refine hstart.bind (silent_callSendByte _ _) fun u hu hw => ?_
  have henv : u.envLevel = v :=
    presents_singleton.1 (hu.presents_after (by rw [levelsRead_lineEvents]; exact presents_singleton.2 hv))
  have hsend := calls_sendByte (s := callSendByte .address (addrByte addr rw) u)
    ((h.at T.address (by simp)).congr hu.after_len (by simp [callSendByte, hw]) (by simp [callSendByte, hw])) rfl rfl rfl henv
  have htUs : (callSendByte .address (addrByte addr rw) u).cfg.tUs = s.cfg.tUs := congrArg Params.tUs hu.after_cfg
  rw [htUs] at hsend
  exact hsend.goOn fun x _ hx => ⟨x, rfl, UpTo.refl x, by simp [hx, callSendByte, hw]⟩

/-- STOP, then the diagnostic, then finish(FAIL) (60_exceptions R214). -/
theorem ends_failed {site : StopSite} {e : DiagEvent} {diagPos : Pos}
    (hstop : RunsAt i (.stop site) (stopStep site (State.goto diagPos)) s)
    (hdiag : RunsAt i (fun _ : Unit => diagPos) (fun _ => raiseFailStep e) s)
    (hfail : RunsAt i (fun _ : Unit => .finishFail) (fun _ => failFinishStep) s) (hpos : s.cur.pos = .stop site 0) :
    Ends i (stopEvents s.cfg.tUs ++ [.g e]) 1 s := by
  have hline := hstop.line (code := stopCode) (ret := State.goto diagPos) id hpos (List.cons_ne_nil _ _) fun k u _ => rfl
  refine hline.ends (silent_goto _) fun u hu hw => ?_
  have hx : exec i (u.goto diagPos) = .next (((u.goto diagPos).diag e).goto .finishFail) :=
    hdiag () _ rfl hu.after_len (by simp [hw]) (by simp [hw])
  refine (performs_one hx (upTo_goto _ _)).finish ?_
  have hfinish := hfail () (((u.goto diagPos).diag e).goto .finishFail) rfl hu.after_len (by simp [hw]) (by simp [hw])
  exact hfinish.trans (by rw [← resultFail_eq]; rfl)

/-- The address phase fails: its byte is not acknowledged, or the bus has no pull-ups (60_exceptions R211; 70 R242, log 18). -/
theorem ends_addressFailed {v : Level} (h : RunsAs i body s) (T : Transaction body addr rw go ret) (hgo : Silent go)
    (hpos : s.cur.pos = .start 0) (hv : s.envLevel = v) (hfails : v = 1 ∨ s.cfg.pulledUp s.sel = false) :
    Ends i (addrNackEvents s.cfg.tUs addr rw v) 1 s := by
  unfold addrNackEvents
  rw [← List.append_assoc]
  refine (calls_address h T hpos hv).ends (silent_afterAddress hgo) fun u hu ⟨hacked, hphase⟩ => ?_
  have hbranch : afterAddress go u = u.goto (.stop .addrNack 0) := by
    refine if_pos ?_
    rcases hfails with hnack | hpull
    · simp [State.addressFails, hacked, hnack, ackOf]
    · simp [State.addressFails, hu.after_cfg, hu.after_sel, hpull]
  have hrun : RunsAs i body (u.goto (.stop .addrNack 0)) := h.congr hu.after_len hphase
  have hstop := ends_failed (hrun.at T.stopNack (by simp)) (hrun.at (fun _ => T.diag) (by simp))
    (hrun.at (fun _ => T.fail) (by simp)) rfl
  rw [hbranch]
  simpa [hu.after_cfg] using hstop

/-- The address byte acknowledged, on a bus with pull-ups: the transaction goes on. -/
theorem calls_acknowledgedAddress (h : RunsAs i body s) (T : Transaction body addr rw go ret) (hpos : s.cur.pos = .start 0)
    (hv : s.envLevel = 0) (hpull : s.cfg.pulledUp s.sel = true) {f : State → State} {g : Work → Work}
    (hgo : ∀ u, go u = f (u.setWork g)) :
    Calls i (startEvents s.cfg.tUs ++ sendByteEvents s.cfg.tUs (addrByte addr rw) 0) f s
      fun w => ∃ x : Work, w = g x ∧ x.phase = s.cur.work.phase := by
  refine (calls_address h T hpos hv).goOn fun u hu ⟨hacked, hphase⟩ => ?_
  have hbranch : afterAddress go u = go u :=
    if_neg (by simp [State.addressFails, hacked, ackOf, hu.after_cfg, hu.after_sel, hpull])
  exact ⟨u.setWork g, hbranch.trans (hgo u), upTo_setWork u g, _, rfl, hphase⟩

/-- STOP at the end of a transaction. -/
theorem calls_stop (h : RunsAs i body s) (T : Transaction body addr rw go ret) (hpos : s.cur.pos = .stop .success 0) :
    Calls i (stopEvents s.cfg.tUs) ret s (· = s.cur.work) :=
  (h.at T.stop (by simp)).line (code := stopCode) id hpos (List.cons_ne_nil _ _) fun _ _ _ => rfl

end

/-! A write (42_buffer_master R161). -/

theorem UpTo.after_mem {u s : State} {evs : List Event} (h : UpTo u (s.after evs)) (hnone : bytesStored evs = []) :
    u.mem = s.mem := by rw [h.mem, State.after_mem, hnone, List.foldl_nil]

theorem UpTo.after_txa {u s : State} {evs : List Event} (h : UpTo u (s.after evs)) : u.cur.txa = s.cur.txa := by
  obtain ⟨-, -, htxa, -⟩ := (sameAgents_after evs s).of_upTo h
  exact htxa

theorem UpTo.after_disturbed {u s : State} {evs : List Event} (h : UpTo u (s.after evs)) :
    u.cur.disturbed = s.cur.disturbed := by
  obtain ⟨-, -, -, -, hdisturbed, -⟩ := (sameAgents_after evs s).of_upTo h
  exact hdisturbed

/-- The payload source gives the byte b: a field of the word, or a byte of the send buffer that holds it and that the caller
has not disturbed (43_register_gateway R190; 20_memory R62). -/
def Gives (s : State) (src : Payload) (b : Byte) : Prop :=
  match src with
  | .field v => v = b
  | .buffer off => memFind (bufAddr s.cfg.addrW s.cur.txa off) s.mem = some b
      ∧ bufAddr s.cfg.addrW s.cur.txa off ∉ s.cur.disturbed

theorem gives_of_payloadByte {s : State} {src : Payload} {b : Byte} (h : payloadByte s src = some b)
    (hd : s.cur.disturbed = []) : Gives s src b := by
  cases src with
  | field v => exact Option.some.inj h
  | buffer off => exact ⟨h, by simp [hd]⟩

/-- Events that store nothing leave what a payload source gives. -/
theorem UpTo.after_gives {u s : State} {evs : List Event} (h : UpTo u (s.after evs)) (hnone : bytesStored evs = [])
    {src : Payload} {b : Byte} (hb : Gives s src b) : Gives u src b := by
  cases src with
  | field v => exact hb
  | buffer off => simpa only [Gives, h.after_cfg, h.after_txa, h.after_mem hnone, h.after_disturbed] using hb

@[simp] theorem levelsRead_payloadEvents (tUs : Nat) (addrOf : Nat → Nat) (src : Payload) (d : Byte) (v : Level) :
    levelsRead (payloadEvents tUs addrOf src d v) = [v] := by
  cases src <;> simp [payloadEvents]

@[simp] theorem bytesStored_payloadEvents (tUs : Nat) (addrOf : Nat → Nat) (src : Payload) (d : Byte) (v : Level) :
    bytesStored (payloadEvents tUs addrOf src d v) = [] := by
  cases src <;> simp [payloadEvents]

theorem payloadsEvents_succ (tUs : Nat) (addrOf : Nat → Nat) (data : Nat → Payload) (d : Nat → Byte) (k : Nat) :
    payloadsEvents tUs addrOf data d (k + 1)
      = payloadsEvents tUs addrOf data d k ++ payloadEvents tUs addrOf (data k) (d k) 0 := by
  simp [payloadsEvents, List.range_succ]

@[simp] theorem levelsRead_payloadsEvents (tUs : Nat) (addrOf : Nat → Nat) (data : Nat → Payload) (d : Nat → Byte) (k : Nat) :
    levelsRead (payloadsEvents tUs addrOf data d k) = List.replicate k 0 := by
  induction k with
  | zero => rfl
  | succ k ih => rw [payloadsEvents_succ, levelsRead_append, ih, levelsRead_payloadEvents, List.replicate_succ']

@[simp] theorem bytesStored_payloadsEvents (tUs : Nat) (addrOf : Nat → Nat) (data : Nat → Payload) (d : Nat → Byte) (k : Nat) :
    bytesStored (payloadsEvents tUs addrOf data d k) = [] := by
  simp [payloadsEvents, bytesStored_flatMap, List.flatMap_eq_nil_iff]

section
variable {i : Instr} {addr : BitVec 7} {n : Nat} {data : Nat → Payload} {ret : State → State} {s : State}

/-- One payload byte b, the one IDX names, its acknowledge sample v; read from the send buffer first where it comes from
there. -/
theorem calls_payload {b : Byte} {v : Level} (h : RunsAs i (writeStep addr n data ret) s) (hn : s.cur.work.idx.toNat < n)
    (hb : Gives s (data s.cur.work.idx.toNat) b) (hv : s.envLevel = v) :
    Calls i (payloadEvents s.cfg.tUs (bufAddr s.cfg.addrW s.cur.txa) (data s.cur.work.idx.toNat) b v) (afterPayload n data)
      (nextPayload n data s) fun w => w.acked = ackOf v ∧ w.idx = s.cur.work.idx ∧ w.phase = s.cur.work.phase := by
  have hsend : ∀ u : State, u.cfg = s.cfg → u.cur.len = s.cur.len → u.cur.work = s.cur.work → u.envLevel = v →
      Calls i (sendByteEvents s.cfg.tUs b v) (afterPayload n data) (callSendByte .payload b u)
        fun w => w.acked = ackOf v ∧ w.idx = s.cur.work.idx ∧ w.phase = s.cur.work.phase := by
    intro u hcfg hlen hw henv
    have hrun : RunsAt i (.send .payload) (sendByteStep .payload (afterPayload n data)) s :=
      h.at (fun p u hp => by simp only [writeStep, hp]) (by simp)
    have hbyte := calls_sendByte (s := callSendByte .payload b u)
      (hrun.congr hlen (by simp [callSendByte, hw]) (by simp [callSendByte, hw])) rfl rfl rfl henv
    have htUs : (callSendByte .payload b u).cfg.tUs = s.cfg.tUs := congrArg Params.tUs hcfg
    rw [htUs] at hbyte
    exact hbyte.goOn fun x _ hx => ⟨x, rfl, UpTo.refl x, by simp [hx, callSendByte, hw]⟩
  unfold nextPayload
  rw [if_pos hn]
  split
  · rename_i v' hsrc
    rw [hsrc] at hb ⊢
    cases hb
    exact hsend s rfl rfl rfl hv
  · rename_i off hsrc
    rw [hsrc] at hb ⊢
    have hx : exec i (s.goto .memRead)
        = .next (callSendByte .payload b ((s.goto .memRead).log (.mr (bufAddr s.cfg.addrW s.cur.txa off) b))) := by
      rw [h (s.goto .memRead) (by simp) (by simp) rfl rfl]
      simp only [writeStep, State.goto_cur_pos, State.goto_cur_work, hsrc, memReadStep]
      exact memRead_held hb.1 hb.2
    have hone := performs_one (e := .mr (bufAddr s.cfg.addrW s.cur.txa off) b) hx (silent_callSendByte _ _ _)
    exact hone.calls (hsend _ rfl rfl rfl hv)

/-- The first k payload bytes, each acknowledged. -/
theorem calls_payloads {k : Nat} {d : Nat → Byte} (h : RunsAs i (writeStep addr n data ret) s) (hk : k ≤ n) (hn : n ≤ 65536)
    (hidx : s.cur.work.idx = 0) (hb : ∀ j < k, Gives s (data j) (d j))
    (hv : Presents s (List.replicate k 0)) :
    Calls i (payloadsEvents s.cfg.tUs (bufAddr s.cfg.addrW s.cur.txa) data d k) (nextPayload n data) (nextPayload n data s)
      fun w => w.idx.toNat = k ∧ w.phase = s.cur.work.phase := by
  induction k with
  | zero => exact ⟨s, rfl, (silent_nextPayload n data s).symm, by simp [hidx], rfl⟩
  | succ k ih =>
    rw [List.replicate_succ'] at hv
    rw [payloadsEvents_succ]
    refine (ih (by omega) (fun j hj => hb j (by omega)) hv.left).bind (silent_nextPayload n data) fun u hu ⟨hui, hup⟩ => ?_
    have hus := hu.trans (upTo_after _ (silent_nextPayload n data s))
    have hbyte : Gives u (data u.cur.work.idx.toNat) (d k) := by
      rw [hui]
      exact hus.after_gives (by simp) (hb k (by omega))
    have henv : u.envLevel = 0 := presents_singleton.1 (hus.presents_after (by simpa using hv))
    have hone := calls_payload (h.congr hus.after_len hup) (by omega) hbyte henv
    rw [hui, hus.after_cfg, hus.after_txa] at hone
    refine hone.goOn fun x _ ⟨hacked, hxi, hxp⟩ => ?_
    have hbranch : afterPayload n data x = nextPayload n data (x.setWork fun w => { w with idx := w.idx + 1 }) :=
      if_neg (by simp [hacked, ackOf])
    exact ⟨_, hbranch, upTo_setWork x _, by simp [hxi]; bv_omega, hxp.trans hup⟩

/-- Before any byte: the address acknowledged, on a bus with pull-ups, and the payload begun with IDX 0. -/
theorem calls_writeAddress (h : RunsAs i (writeStep addr n data ret) s) (hpos : s.cur.pos = .start 0) (hv : s.envLevel = 0)
    (hpull : s.cfg.pulledUp s.sel = true) :
    Calls i (startEvents s.cfg.tUs ++ sendByteEvents s.cfg.tUs (addrByte addr 0) 0) (nextPayload n data) s
      fun w => w.idx = 0 ∧ w.phase = s.cur.work.phase :=
  (calls_acknowledgedAddress h (transaction_write addr n data ret) hpos hv hpull fun _ => rfl).goOn
    fun u _ ⟨_, hw, hphase⟩ => ⟨u, rfl, UpTo.refl u, by rw [hw], by rw [hw]; exact hphase⟩

/-- The address and the first k payload bytes, all acknowledged. -/
theorem calls_writePrefix {k : Nat} {d : Nat → Byte} (h : RunsAs i (writeStep addr n data ret) s) (hpos : s.cur.pos = .start 0)
    (hk : k ≤ n) (hn : n ≤ 65536) (hb : ∀ j < k, Gives s (data j) (d j))
    (hpull : s.cfg.pulledUp s.sel = true) (hv : Presents s (0 :: List.replicate k 0)) :
    Calls i ((startEvents s.cfg.tUs ++ sendByteEvents s.cfg.tUs (addrByte addr 0) 0)
        ++ payloadsEvents s.cfg.tUs (bufAddr s.cfg.addrW s.cur.txa) data d k) (nextPayload n data) s
      fun w => w.idx.toNat = k ∧ w.phase = s.cur.work.phase := by
  refine (calls_writeAddress h hpos (presents_cons.1 hv).1 hpull).bind (silent_nextPayload n data) fun u hu ⟨hidx, hphase⟩ => ?_
  have hpayloads := calls_payloads (k := k) (d := d) (h.congr hu.after_len hphase) hk hn hidx
    (fun j hj => hu.after_gives (by simp [startEvents]) (hb j hj)) (hu.presents_after (by simpa [startEvents] using hv))
  rw [hu.after_cfg, hu.after_txa] at hpayloads
  exact hpayloads.goOn fun x _ ⟨hxi, hxp⟩ => ⟨x, rfl, UpTo.refl x, hxi, hxp.trans hphase⟩

/-- A write transaction, every byte acknowledged (42_buffer_master R161). -/
theorem calls_write {d : Nat → Byte} (h : RunsAs i (writeStep addr n data ret) s) (hpos : s.cur.pos = .start 0)
    (hn : n ≤ 65536) (hb : ∀ j < n, Gives s (data j) (d j))
    (hpull : s.cfg.pulledUp s.sel = true) (hv : Presents s (0 :: List.replicate n 0)) :
    Calls i (writeEvents s.cfg.tUs (bufAddr s.cfg.addrW s.cur.txa) addr data d n) ret s
      fun w => w.phase = s.cur.work.phase := by
  unfold writeEvents
  rw [← List.append_assoc, ← List.append_assoc]
  refine (calls_writePrefix h hpos le_rfl hn hb hpull hv).bind (silent_nextPayload n data) fun u hu ⟨hidx, hphase⟩ => ?_
  have hbranch : nextPayload n data u = u.goto (.stop .success 0) := if_neg (by omega)
  have hstop := calls_stop (s := u.goto (.stop .success 0)) (h.congr hu.after_len hphase)
    (transaction_write addr n data ret) rfl
  rw [State.goto_cfg, hu.after_cfg] at hstop
  rw [hbranch]
  exact hstop.goOn fun x _ hx => ⟨x, rfl, UpTo.refl x, by rw [hx]; exact hphase⟩

/-- A write transaction whose payload byte k is the first not acknowledged (60_exceptions R212, R214, R217). -/
theorem ends_dataFailed {k : Nat} {d : Nat → Byte} (h : RunsAs i (writeStep addr n data ret) s) (hpos : s.cur.pos = .start 0)
    (hk : k < n) (hn : n ≤ 65536) (hb : ∀ j ≤ k, Gives s (data j) (d j))
    (hpull : s.cfg.pulledUp s.sel = true) (hv : Presents s (0 :: List.replicate k 0 ++ [1])) :
    Ends i (dataNackEvents s.cfg.tUs (bufAddr s.cfg.addrW s.cur.txa) addr data d k) 1 s := by
  unfold dataNackEvents
  rw [← List.append_assoc, ← List.append_assoc]
  refine (calls_writePrefix h hpos hk.le hn (fun j hj => hb j hj.le) hpull hv.left).ends (silent_nextPayload n data)
    fun u hu ⟨hidx, hphase⟩ => ?_
  have hbyte : Gives u (data u.cur.work.idx.toNat) (d k) := by
    rw [hidx]
    exact hu.after_gives (by simp [startEvents]) (hb k le_rfl)
  have henv : u.envLevel = 1 := presents_singleton.1 (hu.presents_after (by simpa [startEvents] using hv))
  have hrun := h.congr hu.after_len hphase
  have hone := calls_payload hrun (by omega) hbyte henv
  rw [hidx, hu.after_cfg, hu.after_txa] at hone
  refine hone.ends (silent_afterPayload n data) fun x hx ⟨hacked, hxi, hxp⟩ => ?_
  have hxu := hx.trans (upTo_after _ (silent_nextPayload n data u))
  have hbranch : afterPayload n data x = x.goto (.stop .dataNack 0) := if_pos (by simp [hacked, ackOf])
  have hxrun : RunsAs i (writeStep addr n data ret) (x.goto (.stop .dataNack 0)) := hrun.congr hxu.after_len hxp
  have hdiag : RunsAt i (fun _ : Unit => .diagData) (fun _ => raiseFailStep (.dataNack k)) (x.goto (.stop .dataNack 0)) :=
    fun _ y hy hyl hyi hyp => by
      rw [hxrun y (by simp [hy]) (by simp [hy]) hyl hyp]
      simp only [writeStep, hy]
      rw [hyi, State.goto_cur_work, hxi, hidx]
  have hstop := ends_failed (hxrun.at (fun k y hy => by simp only [writeStep, hy]) (by simp)) hdiag
    (hxrun.at (fun _ => (transaction_write addr n data ret).fail) (by simp)) rfl
  rw [State.goto_cfg, hxu.after_cfg, hu.after_cfg] at hstop
  rw [hbranch]
  exact hstop

end

/-! A read (42_buffer_master R162). -/

theorem UpTo.after_rxa {u s : State} {evs : List Event} (h : UpTo u (s.after evs)) : u.cur.rxa = s.cur.rxa := by
  obtain ⟨-, -, -, hrxa, -⟩ := (sameAgents_after evs s).of_upTo h
  exact hrxa

theorem UpTo.after_mayWrite {u s : State} {evs : List Event} (h : UpTo u (s.after evs)) (a : Nat) :
    u.mayWrite a = s.mayWrite a := by
  obtain ⟨-, -, -, -, -, -, -, -, hwritable, -⟩ := (sameAgents_after evs s).of_upTo h
  rw [State.mayWrite, hwritable, State.mayWrite]

theorem withinLimit_congr {s t : State} (hcfg : t.cfg = s.cfg) {bits : List (Nat × Level)} :
    withinLimit t bits ↔ withinLimit s bits := by
  rw [withinLimit, hcfg, withinLimit]

/-- The events of the first k of the n bytes of a read. -/
def receivedPrefix (tUs : Nat) (addrOf : Nat → Nat) (bs : Nat → List (Nat × Level)) (n k : Nat) : List Event :=
  (List.range k).flatMap fun j => receiveByteEvents tUs (bs j) (readAck j n) ++ [.mw (addrOf j) (assembled (bs j))]

theorem receivedPrefix_succ (tUs : Nat) (addrOf : Nat → Nat) (bs : Nat → List (Nat × Level)) (n k : Nat) :
    receivedPrefix tUs addrOf bs n (k + 1) = receivedPrefix tUs addrOf bs n k
      ++ (receiveByteEvents tUs (bs k) (readAck k n) ++ [.mw (addrOf k) (assembled (bs k))]) := by
  simp [receivedPrefix, List.range_succ]

@[simp] theorem levelsRead_receivedPrefix (tUs : Nat) (addrOf : Nat → Nat) (bs : Nat → List (Nat × Level)) (n k : Nat) :
    levelsRead (receivedPrefix tUs addrOf bs n k) = (List.range k).flatMap fun j => (bs j).flatMap receiveBitEnv := by
  simp [receivedPrefix, levelsRead_flatMap]

theorem calls_one {i : Instr} {e : Event} {ret : State → State} {s t : State} {P : Work → Prop}
    (h : exec i s = .next (ret t)) (hu : UpTo t (s.afterOne e)) (hP : P t.cur.work) : Calls i [e] ret s P :=
  ⟨t, (execN_one i s).trans h, hu, hP⟩

section
variable {i : Instr} {addr : BitVec 7} {n : Nat} {ret : State → State} {s : State}

/-- One byte received and stored at its place in the receive buffer, the one IDX names. -/
theorem calls_receivedByte {bits : List (Nat × Level)} (h : RunsAs i (readStep addr n ret) s) (hn : s.cur.work.idx.toNat < n)
    (hlen : bits.length = 8) (hlimit : withinLimit s bits)
    (hmay : s.mayWrite (bufAddr s.cfg.addrW s.cur.rxa s.cur.work.idx.toNat) = true)
    (hv : Presents s (bits.flatMap receiveBitEnv)) :
    Calls i (receiveByteEvents s.cfg.tUs bits (readAck s.cur.work.idx.toNat n)
        ++ [.mw (bufAddr s.cfg.addrW s.cur.rxa s.cur.work.idx.toNat) (assembled bits)])
      (fun t => nextReceived n (t.setWork fun w => { w with idx := w.idx + 1 })) (nextReceived n s)
      fun w => w.shift = assembled bits ∧ w.idx = s.cur.work.idx ∧ w.phase = s.cur.work.phase := by
  have hrun : RunsAt i (.recv .payload)
      (receiveByteStep .payload (readAck s.cur.work.idx.toNat n) (State.goto .memWrite)) s := fun p u hp hl hi hph => by
    rw [h u (by simp [hp]) (by simp [hp]) hl hph]
    simp only [readStep, hp, hi]
  have hbyte := calls_receiveByte (s := callReceiveByte .payload s) hrun rfl rfl rfl hlen
    ((silent_callReceiveByte .payload s).presents.2 hv) hlimit
  have hbegin : nextReceived n s = callReceiveByte .payload s := if_pos hn
  rw [hbegin]
  refine Calls.bind hbyte (silent_goto _) fun u hu ⟨hshift, hidx, hphase⟩ => ?_
  have hus : UpTo u (s.after _) := hu.trans (upTo_after _ (silent_callReceiveByte .payload s))
  have hx := h (u.goto .memWrite) (by simp) (by simp) hus.after_len hphase
  simp only [readStep, State.goto_cur_pos, memWriteStep, State.goto_cur_work, State.goto_cfg, State.goto_cur_rxa, hshift,
    hus.after_cfg, hus.after_rxa] at hx
  rw [show u.cur.work.idx = s.cur.work.idx from hidx,
    memWrite_provided (s := u.goto .memWrite) ((hus.after_mayWrite _).trans hmay)] at hx
  exact calls_one hx (UpTo.refl _) ⟨hshift, hidx, hphase⟩

/-- The first k bytes, each received and stored. -/
theorem calls_received {k : Nat} {bs : Nat → List (Nat × Level)} (h : RunsAs i (readStep addr n ret) s) (hk : k ≤ n)
    (hn : n ≤ 65536) (hidx : s.cur.work.idx = 0)
    (hbs : ∀ j < k, (bs j).length = 8 ∧ withinLimit s (bs j) ∧ s.mayWrite (bufAddr s.cfg.addrW s.cur.rxa j) = true)
    (hv : Presents s ((List.range k).flatMap fun j => (bs j).flatMap receiveBitEnv)) :
    Calls i (receivedPrefix s.cfg.tUs (bufAddr s.cfg.addrW s.cur.rxa) bs n k) (nextReceived n) (nextReceived n s)
      fun w => w.idx.toNat = k ∧ w.phase = s.cur.work.phase ∧ (0 < k → w.shift = assembled (bs (k - 1))) := by
  induction k with
  | zero => exact ⟨s, rfl, (silent_nextReceived n s).symm, by simp [hidx], rfl, fun h => absurd h (Nat.lt_irrefl 0)⟩
  | succ k ih =>
    rw [List.range_succ, List.flatMap_append, List.flatMap_singleton] at hv
    rw [receivedPrefix_succ]
    refine (ih (by omega) (fun j hj => hbs j (by omega)) hv.left).bind (silent_nextReceived n) fun u hu ⟨hui, hup, _⟩ => ?_
    have hus := hu.trans (upTo_after _ (silent_nextReceived n s))
    obtain ⟨hlen, hlimit, hmay⟩ := hbs k (by omega)
    have hone := calls_receivedByte (bits := bs k) (h.congr hus.after_len hup) (by omega) hlen
      ((withinLimit_congr hus.after_cfg).2 hlimit) (by rw [hus.after_mayWrite, hus.after_cfg, hus.after_rxa, hui]; exact hmay)
      (hus.presents_after (by simpa using hv))
    rw [hui, hus.after_cfg, hus.after_rxa] at hone
    refine hone.goOn fun x _ ⟨hshift, hxi, hxp⟩ => ⟨_, rfl, upTo_setWork x _, ?_, hxp.trans hup, fun _ => hshift⟩
    simp [hxi]
    bv_omega

/-- A read transaction of n bytes (42_buffer_master R162). -/
theorem calls_read {bs : Nat → List (Nat × Level)} (h : RunsAs i (readStep addr n ret) s) (hpos : s.cur.pos = .start 0)
    (hn : n ≤ 65536)
    (hbs : ∀ j < n, (bs j).length = 8 ∧ withinLimit s (bs j) ∧ s.mayWrite (bufAddr s.cfg.addrW s.cur.rxa j) = true)
    (hpull : s.cfg.pulledUp s.sel = true) (hv : Presents s (readEnv bs n)) :
    Calls i (readEvents s.cfg.tUs (bufAddr s.cfg.addrW s.cur.rxa) addr bs n) ret s
      fun w => w.phase = s.cur.work.phase ∧ (0 < n → w.shift = assembled (bs (n - 1))) := by
  unfold readEvents
  rw [← List.append_assoc]
  have haddress := calls_acknowledgedAddress h (transaction_read addr n ret) hpos (presents_cons.1 hv).1 hpull
    (f := nextReceived n) fun _ => rfl
  refine haddress.bind (silent_nextReceived n) fun u hu ⟨y, hw, hphase⟩ => ?_
  have hreceived := calls_received (k := n) (bs := bs) (h.congr hu.after_len (by rw [hw]; exact hphase)) le_rfl hn (by rw [hw])
    (fun j hj => by
      obtain ⟨hlen, hlimit, hmay⟩ := hbs j hj
      refine ⟨hlen, (withinLimit_congr hu.after_cfg).2 hlimit, ?_⟩
      rw [hu.after_mayWrite, hu.after_cfg, hu.after_rxa]
      exact hmay)
    (hu.presents_after (by simpa [startEvents, readEnv] using hv))
  rw [hu.after_cfg, hu.after_rxa] at hreceived
  refine hreceived.bind (silent_nextReceived n) fun x hx ⟨hxi, hxp, hxs⟩ => ?_
  have hxu := hx.trans (upTo_after _ (silent_nextReceived n u))
  have hbranch : nextReceived n x = x.goto (.stop .success 0) := if_neg (by omega)
  have hxphase : x.cur.work.phase = s.cur.work.phase := by rw [hxp, hw]; exact hphase
  have hstop := calls_stop (s := x.goto (.stop .success 0)) (h.congr (hxu.after_len.trans hu.after_len) hxphase)
    (transaction_read addr n ret) rfl
  rw [State.goto_cfg, hxu.after_cfg, hu.after_cfg] at hstop
  rw [hbranch]
  exact hstop.goOn fun z _ hz => ⟨z, rfl, UpTo.refl z, by rw [hz]; exact hxphase, by rw [hz]; exact hxs⟩

end

end Sys2Proof.Machine
end

section
/-! PROOF. Whole commands: the run of a write, whatever the environment acknowledges, and the composite read as an index write
and a read (30_encoding R99; 43_register_gateway R190 to R197). -/

namespace Sys2Proof.Machine

/-! From the entry to the finish. -/

/-- A run from the entry is the run from the first procedure. -/
theorem Ends.of_begin {i : Instr} {evs : List Event} {r : Word} {s : State} (hi : i.reserved = false)
    (he : s.cur.pos = .entry) (h : Ends i evs r (beginCommand i s)) : Ends i evs r s := by
  obtain ⟨u, hrun, hu⟩ := h
  refine ⟨u, ?_, hu.trans (upTo_after evs (silent_beginCommand i s))⟩
  rw [execN.eq_2, exec_entry hi he]
  exact hrun

/-- After its last procedure a command finishes with its own RESULT. -/
theorem Calls.ends_finish {i : Instr} {evs : List Event} {s : State} {P : Work → Prop} {r : Word}
    (h : Calls i evs (State.goto .finish) s P) (hi : i.reserved = false) (hr : ∀ w, P w → finishWord i w = r) :
    Ends i evs r s := by
  obtain ⟨u, hp, -, hP⟩ := h.performs (silent_goto _)
  exact hp.finish (hr _ hP ▸ exec_finish hi rfl)

/-- After these events both lines are released (42_buffer_master R164). -/
def Releases (evs : List Event) : Prop := ∀ s : State, (s.after evs).cur.scl = 1 ∧ (s.after evs).cur.sda = 1

theorem Releases.append {f : List Event} (h : Releases f) (e : List Event) : Releases (e ++ f) := fun s => by
  rw [State.after_append]
  exact h _

theorem releases_stop (tUs : Nat) : Releases (stopEvents tUs) := fun s => by
  simp [State.after, stopEvents, lineEvents, stopCode, LineAct.event, State.afterOne]

theorem releases_stop_diag (tUs : Nat) (e : DiagEvent) : Releases (stopEvents tUs ++ [.g e]) := fun s => by
  rw [State.after_append]
  exact releases_stop tUs s

theorem releases_writeEvents (tUs : Nat) (addrOf : Nat → Nat) (addr : BitVec 7) (data : Nat → Payload) (d : Nat → Byte)
    (n : Nat) : Releases (writeEvents tUs addrOf addr data d n) :=
  (((releases_stop tUs).append _).append _).append _

theorem releases_addrNackEvents (tUs : Nat) (addr : BitVec 7) (rw : BitVec 1) (v : Level) :
    Releases (addrNackEvents tUs addr rw v) := ((releases_stop_diag tUs _).append _).append _

theorem releases_dataNackEvents (tUs : Nat) (addrOf : Nat → Nat) (addr : BitVec 7) (data : Nat → Payload) (d : Nat → Byte)
    (k : Nat) : Releases (dataNackEvents tUs addrOf addr data d k) :=
  ((((releases_stop_diag tUs _).append _).append _).append _).append _

theorem releases_readEvents (tUs : Nat) (addrOf : Nat → Nat) (addr : BitVec 7) (bs : Nat → List (Nat × Level)) (n : Nat) :
    Releases (readEvents tUs addrOf addr bs n) := (((releases_stop tUs).append _).append _).append _

/-! What the environment presents. -/

theorem presents_nextLevels (n : Nat) (s : State) : Presents s (nextLevels n s) := by
  rw [Presents, nextLevels_length]

/-- Two environments that agree on the next n levels agree on any fewer. -/
theorem Presents.of_nextLevels {s t : State} {n : Nat} {vs : List Level} (h : Presents s vs)
    (heq : nextLevels n t = nextLevels n s) (hlen : vs.length ≤ n) : Presents t vs := by
  obtain ⟨m, rfl⟩ := Nat.exists_eq_add_of_le hlen
  rw [nextLevels_add, nextLevels_add] at heq
  exact (List.append_inj heq (by rw [nextLevels_length, nextLevels_length])).1.trans h

/-- A level of 1 needs pull-ups (70 R242 item 2). -/
theorem Presents.pulledUp {s : State} {vs : List Level} (h : Presents s vs) (hone : 1 ∈ vs) : s.cfg.pulledUp s.sel = true := by
  by_contra hpull
  rw [Presents, nextLevels_noPullUps (by simpa using hpull)] at h
  rw [← h] at hone
  exact absurd (List.eq_of_mem_replicate hone) (by decide)

/-- Levels are 0 throughout, or up to a first 1. -/
theorem zeros_or_first_one (vs : List Level) :
    vs = List.replicate vs.length 0 ∨ ∃ k rest, vs = List.replicate k 0 ++ 1 :: rest := by
  induction vs with
  | nil => exact .inl rfl
  | cons v t ih =>
    obtain rfl | rfl : v = 0 ∨ v = 1 := BitVec.eq_zero_or_eq_one v
    · obtain h | ⟨k, rest, h⟩ := ih
      · exact .inl (by rw [List.length_cons, List.replicate_succ, ← h])
      · exact .inr ⟨k + 1, rest, by rw [List.replicate_succ, List.cons_append, ← h]⟩
    · exact .inr ⟨0, t, rfl⟩

/-! How a write of n payload bytes can end. -/

/-- The address phase fails, with this acknowledge sample; payload byte k is the first not acknowledged; all is acknowledged
(60_exceptions R211, R212; 42_buffer_master R161). -/
inductive WriteOutcome where
  | addressFails (v : Level)
  | dataFails (k : Nat)
  | acknowledged

/-- The environment of s brings a write of n payload bytes to this outcome. -/
def WriteOutcome.Occurs (o : WriteOutcome) (s : State) (n : Nat) : Prop :=
  match o with
  | .addressFails v => Presents s [v] ∧ (v = 1 ∨ s.cfg.pulledUp s.sel = false)
  | .dataFails k => k < n ∧ s.cfg.pulledUp s.sel = true ∧ Presents s (0 :: List.replicate k 0 ++ [1])
  | .acknowledged => s.cfg.pulledUp s.sel = true ∧ Presents s (0 :: List.replicate n 0)

/-- The events of the write (42_buffer_master R161; 60_exceptions R211, R212). -/
def WriteOutcome.events (o : WriteOutcome) (tUs : Nat) (addrOf : Nat → Nat) (addr : BitVec 7) (data : Nat → Payload)
    (d : Nat → Byte) (n : Nat) : List Event :=
  match o with
  | .addressFails v => addrNackEvents tUs addr 0 v
  | .dataFails k => dataNackEvents tUs addrOf addr data d k
  | .acknowledged => writeEvents tUs addrOf addr data d n

/-- The RESULT of the write: OK, or FAIL (30_encoding R95). -/
def WriteOutcome.result : WriteOutcome → Word
  | .addressFails _ | .dataFails _ => 1
  | .acknowledged => 0

theorem WriteOutcome.releases (o : WriteOutcome) {tUs : Nat} {addrOf : Nat → Nat} {addr : BitVec 7} {data : Nat → Payload}
    {d : Nat → Byte} {n : Nat} : Releases (o.events tUs addrOf addr data d n) := by
  cases o with
  | addressFails v => exact releases_addrNackEvents _ _ _ _
  | dataFails k => exact releases_dataNackEvents _ _ _ _ _ _
  | acknowledged => exact releases_writeEvents _ _ _ _ _ _

theorem WriteOutcome.bytesStored_events (o : WriteOutcome) (tUs : Nat) (addrOf : Nat → Nat) (addr : BitVec 7)
    (data : Nat → Payload) (d : Nat → Byte) (n : Nat) : bytesStored (o.events tUs addrOf addr data d n) = [] := by
  cases o <;> simp [WriteOutcome.events, addrNackEvents, dataNackEvents, writeEvents, startEvents, stopEvents]

theorem exists_outcome (s : State) (n : Nat) : ∃ o : WriteOutcome, o.Occurs s n := by
  cases hpull : s.cfg.pulledUp s.sel with
  | false => exact ⟨.addressFails s.envLevel, presents_singleton.2 rfl, .inr hpull⟩
  | true =>
    obtain hv | hv : s.envLevel = 0 ∨ s.envLevel = 1 := BitVec.eq_zero_or_eq_one s.envLevel
    · have hrest := presents_nextLevels n s.drawn
      obtain h | ⟨k, rest, h⟩ := zeros_or_first_one (nextLevels n s.drawn)
      · rw [nextLevels_length] at h
        exact ⟨.acknowledged, hpull, presents_cons.2 ⟨hv, h ▸ hrest⟩⟩
      · have hk : k < n := by
          have hlen := congrArg List.length h
          simp [nextLevels_length] at hlen
          omega
        rw [h, ← List.singleton_append, ← List.append_assoc] at hrest
        exact ⟨.dataFails k, hk, hpull, presents_cons.2 ⟨hv, hrest.left⟩⟩
    · exact ⟨.addressFails 1, presents_singleton.2 hv, .inl rfl⟩

/-- The outcome depends on the next n + 1 levels and the pull-ups only. -/
theorem WriteOutcome.Occurs.congr {o : WriteOutcome} {s t : State} {n : Nat} (h : o.Occurs s n)
    (hpull : t.cfg.pulledUp t.sel = s.cfg.pulledUp s.sel) (heq : nextLevels (n + 1) t = nextLevels (n + 1) s) :
    o.Occurs t n := by
  cases o with
  | addressFails v => exact ⟨h.1.of_nextLevels heq (by simp), by rw [hpull]; exact h.2⟩
  | dataFails k =>
    obtain ⟨hk, hp, hv⟩ := h
    exact ⟨hk, hpull.trans hp, hv.of_nextLevels heq (by simp; omega)⟩
  | acknowledged => exact ⟨hpull.trans h.1, h.2.of_nextLevels heq (by simp)⟩

section
variable {i : Instr} {addr : BitVec 7} {n : Nat} {data : Nat → Payload} {d : Nat → Byte} {ret : State → State} {s : State}
  {o : WriteOutcome}

/-- A write that is not acknowledged ends the command, whatever would follow it. -/
theorem ends_writeFailed (h : RunsAs i (writeStep addr n data ret) s) (hpos : s.cur.pos = .start 0) (hn : n ≤ 65536)
    (hb : ∀ j < n, Gives s (data j) (d j)) (ho : o.Occurs s n) (hfails : o ≠ .acknowledged) :
    Ends i (o.events s.cfg.tUs (bufAddr s.cfg.addrW s.cur.txa) addr data d n) o.result s := by
  cases o with
  | addressFails v =>
    obtain ⟨hv, hfail⟩ := ho
    exact ends_addressFailed h (transaction_write addr n data ret)
      ((silent_nextPayload n data).comp fun u => upTo_setWork u _) hpos (presents_singleton.1 hv) hfail
  | dataFails k =>
    obtain ⟨hk, hpull, hv⟩ := ho
    exact ends_dataFailed h hpos hk hn (fun j hj => hb j (by omega)) hpull hv
  | acknowledged => exact absurd rfl hfails

/-- The commands that are one write transaction begin with START, send at most 2^16 bytes, and finish with RESULT 0. -/
theorem writePlan_command {len : BitVec 16} (hw : writePlan i len = some (n, data)) :
    i.reserved = false ∧ beginCommand i = State.goto (.start 0) ∧ n ≤ 65536 ∧ ∀ w, finishWord i w = 0 := by
  have hlen := len.isLt
  cases i with
  | write _ | wrRegIdx _ _ | wrReg _ _ _ | wrRegs _ _ =>
    cases hw
    exact ⟨rfl, rfl, by omega, fun _ => rfl⟩
  | _ => cases hw

/-- A command that is one write transaction, whatever the environment acknowledges. -/
theorem ends_write (hw : writePlan i s.cur.len = some (n, data)) (hpos : s.cur.pos = .entry)
    (hb : ∀ j < n, Gives s (data j) (d j)) (ho : o.Occurs s n) :
    Ends i (o.events s.cfg.tUs (bufAddr s.cfg.addrW s.cur.txa) (deviceAddr i) data d n) o.result s := by
  obtain ⟨hi, hbegin, hn, hr⟩ := writePlan_command hw
  have hrun : RunsAs i (writeStep (deviceAddr i) n data (State.goto .finish)) (s.goto (.start 0)) :=
    fun u he hf hl _ => exec_of_writePlan (hl ▸ hw) he hf
  have ho' : o.Occurs (s.goto (.start 0)) n := ho.congr rfl
    (nextLevels_congr (s := s.goto (.start 0)) (t := s) rfl rfl rfl rfl _)
  refine Ends.of_begin hi hpos ?_
  rw [hbegin]
  by_cases hall : o = .acknowledged
  · subst hall
    exact (calls_write hrun rfl hn hb ho'.1 ho'.2).ends_finish hi fun w _ => hr w
  · exact ends_writeFailed hrun rfl hn hb ho' hall

end

/-! Where the payload comes from (30_encoding R99). -/

@[simp] theorem exceptMemReads_append (e f : List Event) : exceptMemReads (e ++ f) = exceptMemReads e ++ exceptMemReads f :=
  List.filter_append _ _

theorem exceptMemReads_flatMap {α : Type} (l : List α) (f : α → List Event) :
    exceptMemReads (l.flatMap f) = l.flatMap fun a => exceptMemReads (f a) := by
  induction l with
  | nil => rfl
  | cons a t ih => rw [List.flatMap_cons, exceptMemReads_append, ih, List.flatMap_cons]

theorem exceptMemReads_lineEvents (tUs : Nat) (code : List LineAct) :
    exceptMemReads (lineEvents tUs code) = lineEvents tUs code := by
  refine List.filter_eq_self.2 fun e he => ?_
  obtain ⟨a, -, rfl⟩ := List.mem_map.1 he
  cases a <;> rfl

theorem exceptMemReads_sendByteEvents (tUs : Nat) (d : Byte) (v : Level) :
    exceptMemReads (sendByteEvents tUs d v) = sendByteEvents tUs d v := by
  have hsample : exceptMemReads (.r .sda v :: lineEvents tUs pulse9Code) = .r .sda v :: lineEvents tUs pulse9Code :=
    congrArg _ (exceptMemReads_lineEvents tUs pulse9Code)
  simp only [sendByteEvents, exceptMemReads_append, exceptMemReads_flatMap, exceptMemReads_lineEvents, hsample]

/-- But for its read from the send buffer a payload byte is sent alike from wherever it comes. -/
theorem exceptMemReads_payloadEvents (tUs : Nat) (addrOf : Nat → Nat) (src : Payload) (d : Byte) (v : Level) :
    exceptMemReads (payloadEvents tUs addrOf src d v) = sendByteEvents tUs d v := by
  cases src with
  | field _ => exact exceptMemReads_sendByteEvents tUs d v
  | buffer _ => exact exceptMemReads_sendByteEvents tUs d v

/-- But for the reads of the send buffer a write has the same events from wherever its bytes come. -/
theorem WriteOutcome.exceptMemReads_events (o : WriteOutcome) (tUs : Nat) (addr : BitVec 7) (d : Nat → Byte) (n : Nat)
    (addrOf addrOf' : Nat → Nat) (data data' : Nat → Payload) :
    exceptMemReads (o.events tUs addrOf addr data d n) = exceptMemReads (o.events tUs addrOf' addr data' d n) := by
  cases o <;> simp only [WriteOutcome.events, dataNackEvents, writeEvents, payloadsEvents, exceptMemReads_append,
    exceptMemReads_flatMap, exceptMemReads_payloadEvents]

/-- What a run that ends leaves, on lines that its events release: the history, BUSY, RESULT, the lines, caller memory. -/
theorem Ends.leaves {i : Instr} {evs : List Event} {r : Word} {s : State} (h : Ends i evs r s) (hrel : Releases evs) :
    ∃ m u, execN i m s = .next (u.finish r) ∧ UpTo u (s.after evs) ∧ u.cur.history = s.cur.history ++ evs
      ∧ u.cur.scl = 1 ∧ u.cur.sda = 1 ∧ u.mem = (s.after evs).mem := by
  obtain ⟨u, hrun, hu⟩ := h
  obtain ⟨hscl, hsda⟩ := hrel s
  have hlog : u.cur.history = s.cur.history ++ evs := by
    unfold UpTo at hu
    rw [hu]
    exact State.after_cur_history evs s
  exact ⟨_, u, hrun, hu, hlog, hu.scl.trans hscl, hu.sda.trans hsda, hu.mem⟩

/-- A register write, or a WRITE, and the WRITE of the same bytes. -/
theorem write_of_same_bytes {i : Instr} {s s' : State} {n : Nat} {data : Nat → Payload} {d : Nat → Byte}
    (hpos : s.cur.pos = .entry) (hpos' : s'.cur.pos = .entry) (hw : writePlan i s.cur.len = some (n, data))
    (hlen : s'.cur.len.toNat = n) (hb : ∀ j < n, Gives s (data j) (d j)) (hb' : ∀ j < n, Gives s' (payloadWrite j) (d j))
    (htUs : s'.cfg.tUs = s.cfg.tUs) (hpull : s'.cfg.pulledUp s'.sel = s.cfg.pulledUp s.sel)
    (hlevels : nextLevels (n + 1) s' = nextLevels (n + 1) s) :
    ∃ (m m' : Nat) (t t' : State) (evs evs' : List Event), execN i m s = .next t
      ∧ execN (.write (deviceAddr i)) m' s' = .next t' ∧ t.cur.busy = false ∧ t'.cur.busy = false
      ∧ t.cur.history = s.cur.history ++ evs ∧ t'.cur.history = s'.cur.history ++ evs'
      ∧ exceptMemReads evs' = exceptMemReads evs ∧ t'.cur.result = t.cur.result
      ∧ t'.cur.scl = t.cur.scl ∧ t'.cur.sda = t.cur.sda ∧ t.mem = s.mem ∧ t'.mem = s'.mem := by
  obtain ⟨o, ho⟩ := exists_outcome s n
  have hw' : writePlan (.write (deviceAddr i)) s'.cur.len = some (n, payloadWrite) := by rw [← hlen]; rfl
  obtain ⟨m, u, hrun, hu, hlog, hscl, hsda, hmem⟩ := (ends_write hw hpos hb ho).leaves o.releases
  obtain ⟨m', u', hrun', hu', hlog', hscl', hsda', hmem'⟩ :=
    (ends_write hw' hpos' hb' (ho.congr hpull hlevels)).leaves o.releases
  refine ⟨m, m', _, _, _, _, hrun, hrun', rfl, rfl, hlog, hlog', ?_, rfl, hscl'.trans hscl.symm, hsda'.trans hsda.symm,
    hu.after_mem (o.bytesStored_events ..), hu'.after_mem (o.bytesStored_events ..)⟩
  rw [htUs]
  exact o.exceptMemReads_events ..

/-! RD_REG as WR_REG_IDX and a READ (43_register_gateway R194, R196, R197; 30_encoding R99). -/

section
variable {addr : BitVec 7} {index : Byte} {s : State}

/-- In its first phase RD_REG is the index write, and goes on to the second. -/
theorem runsAs_rdReg_index (hphase : s.cur.work.phase = 0) :
    RunsAs (.rdReg addr index) (writeStep addr 1 (payloadIndex index) (beginPhase 1)) s := fun u he hf _ hph => by
  simp only [exec, execRdReg, enter_of_ne he, registerReadStep, hph.trans hphase, if_true]

/-- In its second phase RD_REG is a read of one byte. -/
theorem runsAs_rdReg_read (hphase : s.cur.work.phase = 1) :
    RunsAs (.rdReg addr index) (readStep addr 1 (State.goto .finish)) s := fun u he hf _ hph => by
  have hne : u.cur.work.phase ≠ 0 := by rw [hph, hphase]; decide
  simp only [exec, execRdReg, enter_of_ne he, registerReadStep, hne, if_false]

theorem runsAs_read {n : Nat} (hlen : s.cur.len.toNat = n) :
    RunsAs (.read addr) (readStep addr n (State.goto .finish)) s := fun u he hf hl _ => by
  simp only [exec, execRead, enter_of_ne he, hl, hlen]

/-- Where the index write is not acknowledged RD_REG ends as WR_REG_IDX does. -/
theorem rdReg_fails_as_index_write (hpos : s.cur.pos = .entry)
    (hfails : nextLevels 2 s ≠ [0, 0] ∨ s.cfg.pulledUp s.sel = false) :
    ∃ (m m' : Nat) (t t' : State), execN (.rdReg addr index) m s = .next t ∧ execN (.wrRegIdx addr index) m' s = .next t'
      ∧ t.cur.busy = false ∧ t'.cur.busy = false ∧ t.cur.history = t'.cur.history ∧ t.cur.result = 1 ∧ t'.cur.result = 1
      ∧ t.cur.scl = t'.cur.scl ∧ t.cur.sda = t'.cur.sda ∧ t.mem = t'.mem := by
  obtain ⟨o, ho⟩ := exists_outcome s 1
  have hne : o ≠ .acknowledged := by
    rintro rfl
    obtain ⟨hpull, hv⟩ := ho
    exact hfails.elim (fun h => h hv) fun h => by simp [h] at hpull
  have hresult : o.result = 1 := by
    cases o with
    | acknowledged => exact absurd rfl hne
    | _ => rfl
  have hcomposite : Ends (.rdReg addr index) _ _ s := Ends.of_begin rfl hpos (ends_writeFailed (s := beginPhase 0 s)
    (d := fun _ => index) (runsAs_rdReg_index rfl) rfl (by decide) (fun _ _ => rfl)
    (ho.congr rfl (nextLevels_congr (s := beginPhase 0 s) (t := s) rfl rfl rfl rfl _)) hne)
  have hindex := ends_write (i := .wrRegIdx addr index) (d := fun _ => index) rfl hpos (fun _ _ => rfl) ho
  obtain ⟨m, u, hrun, hu, hlog, hscl, hsda, hmem⟩ := hcomposite.leaves o.releases
  obtain ⟨m', u', hrun', hu', hlog', hscl', hsda', hmem'⟩ := hindex.leaves o.releases
  exact ⟨m, m', _, _, hrun, hrun', rfl, rfl, hlog.trans hlog'.symm, hresult, hresult, hscl.trans hscl'.symm,
    hsda.trans hsda'.symm, hmem.trans hmem'.symm⟩

/-- y is at the START of the read that follows an acknowledged index write made from s, on the same port and into the same
buffer: the second phase of RD_REG, or a READ issued after WR_REG_IDX. -/
structure AtRead (s y : State) : Prop where
  pos : y.cur.pos = .start 0
  cfg : y.cfg = s.cfg
  sel : y.sel = s.sel
  rxa : y.cur.rxa = s.cur.rxa
  writable : y.writable = s.writable
  presents : ∀ vs, Presents s (0 :: 0 :: vs) → Presents y vs

/-- The events of the index write. -/
def indexWriteEvents (addr : BitVec 7) (index : Byte) (s : State) : List Event :=
  writeEvents s.cfg.tUs (bufAddr s.cfg.addrW s.cur.txa) addr (payloadIndex index) (fun _ => index) 1

/-- After the index write the port is as a read finds it, its operands but RXA and POS aside. -/
theorem atRead_of_upTo {x y : State} (hx : UpTo x (s.after (indexWriteEvents addr index s))) (hpos : y.cur.pos = .start 0)
    (hcfg : y.cfg = x.cfg) (hsel : y.sel = x.sel) (hrxa : y.cur.rxa = s.cur.rxa) (hwritable : y.writable = x.writable)
    (henv : y.cur.env = x.cur.env) (hpresented : y.cur.presented = x.cur.presented) : AtRead s y := by
  obtain ⟨-, -, -, -, -, -, -, -, hwr, -⟩ := (sameAgents_after _ s).of_upTo hx
  refine ⟨hpos, hcfg.trans hx.after_cfg, hsel.trans hx.after_sel, hrxa, hwritable.trans hwr, fun vs hvs => ?_⟩
  refine (presents_congr hcfg hsel henv hpresented).2 (hx.presents_after ?_)
  simpa [indexWriteEvents, writeEvents, startEvents, stopEvents] using hvs

/-- Where the index write is acknowledged RD_REG has the events of WR_REG_IDX and then those of the READ of one byte, into the
same buffer, that the caller issues after it. -/
theorem rdReg_as_index_write_then_read {evs : List Event} {r r' : Word} (hpos : s.cur.pos = .entry)
    (hpull : s.cfg.pulledUp s.sel = true) (hv : Presents s [0, 0]) (hrel : Releases evs)
    (hcomposite : ∀ y, AtRead s y → y.cur.work.phase = 1 → Ends (.rdReg addr index) evs r y)
    (hread : ∀ y, AtRead s y → y.cur.len = 1 → Ends (.read addr) evs r' y) :
    ∃ (m m' k : Nat) (t t' u : State), execN (.rdReg addr index) m s = .next t
      ∧ execN (.wrRegIdx addr index) m' s = .next t' ∧ t'.cur.busy = false ∧ t'.cur.result = 0
      ∧ execN (.read addr) k (t'.accept { cmd := encode (.read addr), len := 1, txa := 0, rxa := s.cur.rxa }) = .next u
      ∧ t.cur.busy = false ∧ u.cur.busy = false ∧ t.cur.history = u.cur.history ∧ t.cur.result = r ∧ u.cur.result = r'
      ∧ t.cur.scl = u.cur.scl ∧ t.cur.sda = u.cur.sda ∧ t.mem = u.mem := by
  have hwrite : Calls (.rdReg addr index) (indexWriteEvents addr index s) (beginPhase 1) (beginPhase 0 s) _ :=
    calls_write (s := beginPhase 0 s) (runsAs_rdReg_index rfl) rfl (by decide) (fun _ _ => rfl) hpull
      ((silent_beginPhase 0 s).presents.2 hv)
  have hwhole : Ends (.rdReg addr index) (indexWriteEvents addr index s ++ evs) r s :=
    Ends.of_begin rfl hpos (hwrite.ends (silent_beginPhase 1) fun x hx _ => by
      have hxs := hx.trans (upTo_after _ (silent_beginPhase 0 s))
      exact hcomposite _ (atRead_of_upTo hxs rfl rfl rfl hxs.after_rxa rfl rfl rfl) rfl)
  have hindex : Ends (.wrRegIdx addr index) (indexWriteEvents addr index s) 0 s :=
    ends_write (o := .acknowledged) rfl hpos (fun _ _ => rfl) ⟨hpull, hv⟩
  obtain ⟨m, x, hrun, hx, hlog, hscl, hsda, hmem⟩ := hwhole.leaves (hrel.append _)
  obtain ⟨m', x', hrun', hx', hlog', -, -, hmem'⟩ := hindex.leaves (releases_writeEvents _ _ _ _ _ _)
  have hissued : Ends (.read addr) evs r'
      ((x'.finish 0).accept { cmd := encode (.read addr), len := 1, txa := 0, rxa := s.cur.rxa }) :=
    Ends.of_begin rfl rfl (hread _ (atRead_of_upTo hx' rfl rfl rfl rfl rfl rfl rfl) rfl)
  obtain ⟨k, y, hrun'', hy, hlog'', hscl'', hsda'', hmem''⟩ := hissued.leaves hrel
  refine ⟨m, m', k, _, _, _, hrun, hrun', rfl, rfl, hrun'', rfl, rfl, ?_, rfl, rfl, hscl.trans hscl''.symm,
    hsda.trans hsda''.symm, ?_⟩
  · change x.cur.history = y.cur.history
    rw [hlog, hlog'', ← List.append_assoc]
    exact congrArg (· ++ evs) hlog'.symm
  · change x.mem = y.mem
    rw [hmem, hmem'', State.after_append, State.after_mem, State.after_mem evs]
    exact congrArg (List.foldl _ · _) hmem'.symm

/-- A read whose address is not acknowledged, in RD_REG or in READ. -/
theorem ends_readNack {i : Instr} {ret : State → State} {y : State} (hy : AtRead s y) (h : RunsAs i (readStep addr 1 ret) y)
    (hv : Presents s [0, 0, 1]) : Ends i (addrNackEvents s.cfg.tUs addr 1 1) 1 y := by
  rw [← hy.cfg]
  exact ends_addressFailed h (transaction_read addr 1 ret) ((silent_nextReceived 1).comp fun u => upTo_setWork u _) hy.pos
    (presents_singleton.1 (hy.presents [1] hv)) (.inl rfl)

/-- A read of one byte, in RD_REG or in READ, which leaves the byte in SHIFT. -/
theorem calls_readByte {i : Instr} {ret : State → State} {y : State} {bits : List (Nat × Level)} (hy : AtRead s y)
    (h : RunsAs i (readStep addr 1 ret) y) (hlen : bits.length = 8) (hlimit : withinLimit s bits)
    (hmay : s.mayWrite (bufAddr s.cfg.addrW s.cur.rxa 0) = true) (hpull : s.cfg.pulledUp s.sel = true)
    (hv : Presents s (0 :: 0 :: 0 :: bits.flatMap receiveBitEnv)) :
    Calls i (readEvents s.cfg.tUs (bufAddr s.cfg.addrW s.cur.rxa) addr (fun _ => bits) 1) ret y
      fun w => w.shift = assembled bits := by
  have hmay' : y.mayWrite (bufAddr y.cfg.addrW y.cur.rxa 0) = true := by
    rw [State.mayWrite, hy.cfg, hy.rxa, hy.writable]
    exact hmay
  have hread := calls_read (bs := fun _ => bits) h hy.pos (by decide)
    (fun j hj => ⟨hlen, (withinLimit_congr hy.cfg).2 hlimit, by rw [Nat.lt_one_iff.1 hj]; exact hmay'⟩)
    (by rw [hy.cfg, hy.sel]; exact hpull) (by simpa [readEnv] using hy.presents _ hv)
  rw [hy.cfg, hy.rxa] at hread
  exact hread.goOn fun u _ ⟨_, hshift⟩ => ⟨u, rfl, UpTo.refl u, hshift Nat.one_pos⟩

end

/-- Settles O46: the bytes of a payload are sent alike from wherever they come (write_of_same_bytes), and RD_REG is its index
write and its read (rdReg_fails_as_index_write, rdReg_as_index_write_then_read). -/
theorem payloadSourceDoesNotShowOnTheBus : Obligations.PayloadSourceDoesNotShowOnTheBus := by
  refine ⟨fun i s s' n data d hpos hpos' _ _ hw hlen hb hb' hd hd' htUs hpull hlevels => ?_,
    fun addr index s hpos _ => ⟨rdReg_fails_as_index_write hpos, fun hv => ?_, fun bits hlen hlimit hmay hv => ?_⟩⟩
  · exact write_of_same_bytes hpos hpos' hw hlen (fun j hj => gives_of_payloadByte (hb j hj) hd)
      (fun j hj => gives_of_payloadByte (hb' j hj) hd') htUs hpull hlevels
  · have hpresents : Presents s [0, 0, 1] := hv
    exact rdReg_as_index_write_then_read hpos (hpresents.pulledUp (by decide)) (hpresents.left (vs := [0, 0]))
      (releases_addrNackEvents s.cfg.tUs addr 1 1)
      (fun y hy hphase => ends_readNack hy (runsAs_rdReg_read hphase) hpresents)
      (fun y hy hone => ends_readNack hy (runsAs_read (by rw [hone]; rfl)) hpresents)
  · have hpresents : Presents s (0 :: 0 :: 0 :: bits.flatMap receiveBitEnv) := by
      rw [Presents, ← hv, nextLevels_length]
    have hpull : s.cfg.pulledUp s.sel = true := by
      obtain ⟨b, rest, rfl⟩ := List.exists_cons_of_length_eq_add_one hlen
      exact hpresents.pulledUp (by simp [receiveBitEnv])
    exact rdReg_as_index_write_then_read hpos hpull (hpresents.left (vs := [0, 0]))
      (releases_readEvents s.cfg.tUs (bufAddr s.cfg.addrW s.cur.rxa) addr (fun _ => bits) 1)
      (fun y hy hphase => (calls_readByte hy (runsAs_rdReg_read hphase) hlen hlimit hmay hpull hpresents).ends_finish rfl
        fun w hw => by rw [← hw]; rfl)
      (fun y hy hone => (calls_readByte hy (runsAs_read (by rw [hone]; rfl)) hlen hlimit hmay hpull hpresents).ends_finish rfl
        fun _ _ => rfl)

end Sys2Proof.Machine
end

section
/-! PROOF. The bit commands: their first primitives, the runs of those that are one straight line of pseudocode, and of RECV_BIT
(40_bit_master R111 to R115). -/

namespace Sys2Proof.Machine

/-! The drive levels after a list of events. -/

/-- The drive level of a line after one event, its level before given (10_state R21). -/
def Event.drives (l : Line) (v : Level) : Event → Level
  | .w m x => if m = l then x else v
  | .r _ _ | .d _ | .mr _ _ | .mw _ _ | .g _ => v

/-- The drive level of a line after a list of events, its level before given. -/
def levelAfter (l : Line) (evs : List Event) (v : Level) : Level := evs.foldl (Event.drives l) v

theorem levelAfter_append (l : Line) (e f : List Event) (v : Level) :
    levelAfter l (e ++ f) v = levelAfter l f (levelAfter l e v) := List.foldl_append

theorem State.afterOne_drive (e : Event) (l : Line) (s : State) :
    (s.afterOne e).cur.drive l = Event.drives l (s.cur.drive l) e := by
  cases e with
  | w m v => cases m <;> cases l <;> simp [State.afterOne, PortState.drive, Event.drives]
  | r m v => cases l <;> simp [State.afterOne, PortState.drive, Event.drives]
  | d _ | mr _ _ | mw _ _ | g _ => rfl

theorem State.after_drive (evs : List Event) (l : Line) (s : State) :
    (s.after evs).cur.drive l = levelAfter l evs (s.cur.drive l) := by
  induction evs generalizing s with
  | nil => rfl
  | cons e t ih => rw [State.after_cons, ih, State.afterOne_drive]; rfl

/-- Polls drive no line. -/
@[simp] theorem levelAfter_polls (l : Line) (k : Nat) (x v : Level) : levelAfter l (List.replicate k (.r .scl x)) v = v := by
  induction k with
  | zero => rfl
  | succ k ih => rw [List.replicate_succ]; exact ih

theorem UpTo.after_history {u s : State} {evs : List Event} (h : UpTo u (s.after evs)) :
    u.cur.history = s.cur.history ++ evs := by
  unfold UpTo at h
  rw [h]
  exact State.after_cur_history evs s

/-- A run to the finish that stores no byte ends the command, with the lines at the levels its events drive. -/
theorem Ends.ended {i : Instr} {evs : List Event} {r : Word} {s : State} {scl sda : Level} (h : Ends i evs r s)
    (hnone : bytesStored evs = []) (hscl : levelAfter .scl evs s.cur.scl = scl)
    (hsda : levelAfter .sda evs s.cur.sda = sda) :
    ∃ t, execN i (evs.length + 1) s = .next t ∧ t.mem = s.mem ∧ Ended s t evs scl sda r := by
  obtain ⟨u, hrun, hu⟩ := h
  obtain ⟨hcmd, hlen, htxa, hrxa, -, hcfg, hsel, hothers, hwritable, hinbox, hreplies, hturn⟩ :=
    (sameAgents_after evs s).of_upTo hu
  exact ⟨u.finish r, hrun, hu.after_mem hnone, hu.after_history, rfl, rfl, rfl,
    hu.scl.trans ((State.after_drive evs .scl s).trans hscl), hu.sda.trans ((State.after_drive evs .sda s).trans hsda),
    hcmd, hlen, htxa, hrxa, hsel, hothers, hcfg, hwritable, hinbox, hreplies, hturn⟩

/-! The commands that are one straight line of pseudocode. -/

/-- The command is this straight line of pseudocode, at the positions `here`, and finishes with RESULT 0. -/
structure LineCommand (i : Instr) (code : List LineAct) (here : Nat → Pos) : Prop where
  legal : i.reserved = false
  begins : beginCommand i = State.goto (here 0)
  runs : ∀ k u, u.cur.pos = here k → exec i u = lineStep code here (State.goto .finish) k u
  result : ∀ w, finishWord i w = 0

theorem lineCommand_init : LineCommand .init initCode .init :=
  ⟨rfl, rfl, fun k u hp => by simp [exec, execInit, State.enter, hp], fun _ => rfl⟩

theorem lineCommand_start : LineCommand .start startCode .start :=
  ⟨rfl, rfl, fun k u hp => by simp [exec, execStart, startStep, State.enter, hp], fun _ => rfl⟩

theorem lineCommand_stop : LineCommand .stop stopCode (.stop .command) :=
  ⟨rfl, rfl, fun k u hp => by simp [exec, execStop, stopStep, State.enter, hp], fun _ => rfl⟩

theorem lineCommand_sendBit (b : BitVec 1) : LineCommand (.sendBit b) (sendBitCode b) .sendBit :=
  ⟨rfl, rfl, fun k u hp => by simp [exec, execSendBit, State.enter, hp], fun _ => rfl⟩

/-- At its entry a command that begins with a straight line performs the first primitive of it. -/
theorem exec_entry_line {i : Instr} {code : List LineAct} {here : Nat → Pos} {ret : State → State} {s : State}
    (hi : i.reserved = false) (he : s.cur.pos = .entry) (hbegin : beginCommand i = State.goto (here 0))
    (hx : ∀ u, u.cur.pos = here 0 → exec i u = lineStep code here ret 0 u) (hc : 1 < code.length) :
    exec i s = .next ((code[0].perform s).goto (here 1)) := by
  rw [exec_entry hi he, hbegin, hx _ rfl, lineStep_eq (Nat.zero_lt_of_lt hc), if_pos hc, perform_goto]
  rfl

theorem LineCommand.first {i : Instr} {code : List LineAct} {here : Nat → Pos} {s : State} (h : LineCommand i code here)
    (he : s.cur.pos = .entry) (hc : 1 < code.length) : exec i s = .next ((code[0].perform s).goto (here 1)) :=
  exec_entry_line h.legal he h.begins (h.runs 0) hc

/-- The whole run of such a command, from its entry. -/
theorem LineCommand.ended {i : Instr} {code : List LineAct} {here : Nat → Pos} {s : State} {scl sda : Level}
    (h : LineCommand i code here) (he : s.cur.pos = .entry) (hc : code ≠ [])
    (hscl : levelAfter .scl (lineEvents s.cfg.tUs code) s.cur.scl = scl)
    (hsda : levelAfter .sda (lineEvents s.cfg.tUs code) s.cur.sda = sda) :
    ∃ t, execN i (code.length + 1) s = .next t ∧ t.mem = s.mem ∧ Ended s t (lineEvents s.cfg.tUs code) scl sda 0 := by
  have hline := calls_line (i := i) (s := s.goto (here 0)) (ret := State.goto .finish) rfl hc fun k u hp _ _ => h.runs k u hp
  have hends : Ends i (lineEvents s.cfg.tUs code) 0 s :=
    Ends.of_begin h.legal he (h.begins ▸ hline.ends_finish h.legal fun w _ => h.result w)
  rw [← lineEvents_length s.cfg.tUs code]
  exact hends.ended (bytesStored_lineEvents _ _) hscl hsda

/-- Settles O26: INIT is a straight line of two SetLine (LineCommand.ended). -/
theorem initReleasesBothLines : Obligations.InitReleasesBothLines := by
  intro s he
  obtain ⟨t, hrun, hmem, hended⟩ := lineCommand_init.ended (scl := 1) (sda := 1) he (List.cons_ne_nil _ _) rfl rfl
  exact ⟨t, hrun, hended, hmem⟩

/-- Settles O27: START is the straight line of start() (LineCommand.ended). -/
theorem startFormsStart : Obligations.StartFormsStart := fun _ he =>
  lineCommand_start.ended he (List.cons_ne_nil _ _) rfl rfl

/-- Settles O28: STOP is the straight line of stop() (LineCommand.ended). -/
theorem stopFormsStop : Obligations.StopFormsStop := fun _ he =>
  lineCommand_stop.ended he (List.cons_ne_nil _ _) rfl rfl

/-- Settles O29: SEND_BIT is the straight line of send_bit, with no wait after its last SetLine (LineCommand.ended). -/
theorem sendBitClocksTheBit : Obligations.SendBitClocksTheBit := fun b _ he =>
  (lineCommand_sendBit b).ended he (List.cons_ne_nil _ _) rfl rfl

/-! Where a receive_bit stands in its command (40_bit_master R115, R116). -/

/-- As long as LEN, IDX and PHASE are those of s, the command of s has at `site` the receive_bit that goes on by `ret`, within
`body`, and reports a stall of it. -/
structure Receives (i : Instr) (site : RecvSite) (body : RecvPos → State → Out) (ret : State → State) (s : State) :
    Prop where
  runs : RunsAt i (.recv site) body s
  bit : ∀ p, (∀ j, p ≠ .ack j) → body p = receiveBitStep site ret p
  diag : RunsAt i (fun _ : Unit => .diagStall) (fun _ => stallDiagStep) s
  fail : RunsAt i (fun _ : Unit => .finishStall) (fun _ => stallFinishStep) s

theorem receives_recvBit (s : State) :
    Receives .recvBit .bitCommand (receiveBitStep .bitCommand (State.goto .finish)) (State.goto .finish) s where
  runs p u hp _ _ _ := by simp only [exec, execRecvBit, State.enter, hp, reduceCtorEq, if_false]
  bit _ _ := rfl
  diag _ u hp _ _ _ := by simp only [exec, execRecvBit, State.enter, hp, reduceCtorEq, if_false]
  fail _ u hp _ _ _ := by simp only [exec, execRecvBit, State.enter, hp, reduceCtorEq, if_false]

/-- Settles O17: the straight line each command begins with (LineCommand.first, exec_entry_line). -/
theorem bitCommandsFirstPrimitive : Obligations.BitCommandsFirstPrimitive := by
  intro s b he
  have hrecv := exec_entry_line (i := .recvBit) (code := raiseCode) (here := fun j => .recv .bitCommand (.raise j))
    (ret := fun t => (t.setWork fun w => { w with polls := 0 }).goto (.recv .bitCommand .poll)) rfl he rfl
    (fun u hp => (receives_recvBit u).runs (.raise 0) u hp rfl rfl rfl) (by decide)
  exact ⟨lineCommand_init.first he (by decide), lineCommand_start.first he (by decide),
    lineCommand_stop.first he (by decide), (lineCommand_sendBit b).first he (by simp), hrecv⟩

/-- Settles O30: RECV_BIT is receive_bit (calls_receiveBit) and the finish with its bit. -/
theorem recvBitReturnsTheSampledBit : Obligations.RecvBitReturnsTheSampledBit := by
  intro k b s he hv hlimit
  have hpresents : Presents s (receiveBitEnv (k, b)) := by
    rw [Presents, receiveBitEnv, ← hv, nextLevels_length]
  have R := receives_recvBit (beginCommand .recvBit s)
  have hbit := calls_receiveBit R.runs R.bit rfl ((silent_beginCommand .recvBit s).presents.2 hpresents)
    fun m hm => hlimit m hm (k, b) List.mem_cons_self
  have hends : Ends .recvBit (receiveBitEvents s.cfg.tUs k b) (b.zeroExtend 32 <<< 3) s :=
    Ends.of_begin rfl he (hbit.ends_finish rfl fun w ⟨p, hw⟩ => by rw [hw]; rfl)
  have hlen : k + 8 = (receiveBitEvents s.cfg.tUs k b).length + 1 := by simp [receiveBitEvents]; omega
  rw [hlen]
  exact hends.ended (bytesStored_receiveBitEvents _ _ _) (by rw [receiveBitEvents, levelAfter_append, levelAfter_append]; rfl)
    (by rw [receiveBitEvents, levelAfter_append, levelAfter_append, levelAfter_polls]; rfl)

end Sys2Proof.Machine
end

section
/-! PROOF. A receive_bit that stalls ends its command, whichever the command and wherever in it (40_bit_master R116). -/

namespace Sys2Proof.Machine

theorem receives_recvByte (ack : BitVec 1) (s : State) :
    Receives (.recvByte ack) .byteCommand (receiveByteStep .byteCommand ack (State.goto .finish))
      (nextReceiveBit .byteCommand) s where
  runs p u hp _ _ _ := by simp only [exec, execRecvByte, State.enter, hp, reduceCtorEq, if_false]
  bit _ hp := receiveByteStep_bit hp
  diag _ u hp _ _ _ := by simp only [exec, execRecvByte, State.enter, hp, reduceCtorEq, if_false]
  fail _ u hp _ _ _ := by simp only [exec, execRecvByte, State.enter, hp, reduceCtorEq, if_false]

/-- The payload of a read transaction, alone or as a phase of a composite read (42_buffer_master R162). -/
theorem receives_read {i : Instr} {addr : BitVec 7} {n : Nat} {ret : State → State} {s : State}
    (h : RunsAs i (readStep addr n ret) s) :
    Receives i .payload (receiveByteStep .payload (readAck s.cur.work.idx.toNat n) (State.goto .memWrite))
      (nextReceiveBit .payload) s where
  runs p u hp hl hi hph := by rw [h u (by simp [hp]) (by simp [hp]) hl hph]; simp only [readStep, hp, hi]
  bit _ hp := receiveByteStep_bit hp
  diag _ u hp hl _ hph := by rw [h u (by simp [hp]) (by simp [hp]) hl hph]; simp only [readStep, hp]
  fail _ u hp hl _ hph := by rw [h u (by simp [hp]) (by simp [hp]) hl hph]; simp only [readStep, hp]

/-- In its second phase RD_REGS is a read of LEN bytes (43_register_gateway R195). -/
theorem runsAs_rdRegs_read {addr : BitVec 7} {index : Byte} {s : State} (hphase : s.cur.work.phase = 1) :
    RunsAs (.rdRegs addr index) (readStep addr s.cur.len.toNat (State.goto .finish)) s := fun u he hf hl hph => by
  have hne : u.cur.work.phase ≠ 0 := by rw [hph, hphase]; decide
  simp only [exec, execRdRegs, enter_of_ne he, registerReadStep, hne, if_false, hl]

/-- A composite read receives in its second phase only (43_register_gateway R194, R195). -/
theorem phase_of_registerRead_recv {index : Byte} {n : Nat} {q : PortState} {site : RecvSite} {p : RecvPos}
    (hp : q.pos = .recv site p) (ho : registerReadOwns index n q = true) : q.work.phase = 1 ∧ site = .payload := by
  have hphase : q.work.phase ≠ 0 := fun h => by simp [registerReadOwns_index h, writeOwns, hp] at ho
  refine ⟨(BitVec.eq_zero_or_eq_one _).resolve_left hphase, ?_⟩
  cases site with
  | payload => rfl
  | bitCommand | byteCommand => simp [registerReadOwns_read hphase, readOwns, hp] at ho

/-- A command at a position of a receive_bit is one that has it there. -/
theorem receives_of_owns {i : Instr} {site : RecvSite} {p : RecvPos} {s : State} (ho : owns i s.cur = true)
    (hp : s.cur.pos = .recv site p) : ∃ body ret, Receives i site body ret s := by
  cases i with
  | recvBit =>
    cases site with
    | bitCommand => exact ⟨_, _, receives_recvBit s⟩
    | byteCommand | payload => simp [owns, hp] at ho
  | recvByte ack =>
    cases site with
    | byteCommand => exact ⟨_, _, receives_recvByte ack s⟩
    | bitCommand | payload => simp [owns, hp] at ho
  | read addr =>
    cases site with
    | payload => exact ⟨_, _, receives_read (runsAs_read rfl)⟩
    | bitCommand | byteCommand => simp [owns, hp, readOwns] at ho
  | rdReg addr index =>
    obtain ⟨hphase, rfl⟩ := phase_of_registerRead_recv hp ho
    exact ⟨_, _, receives_read (runsAs_rdReg_read hphase)⟩
  | rdRegs addr index =>
    obtain ⟨hphase, rfl⟩ := phase_of_registerRead_recv hp ho
    exact ⟨_, _, receives_read (runsAs_rdRegs_read hphase)⟩
  | _ => simp [owns, hp, writeCommandOwns, writeOwns] at ho

/-- With a finite limit a poll that reads 0 is counted, and the one that reaches the limit ends in the report of the stall
(40_bit_master R116). -/
theorem pollStep_counts {site : RecvSite} {s : State} {n : Nat} (hscl : s.cur.scl = 1) (hv : s.envLevel = 0)
    (hm : s.cfg.stretchLimit = some n) :
    (pollStep site s).cur.work.polls = s.cur.work.polls + 1
      ∧ (pollStep site s).cur.pos = if s.cur.work.polls + 1 = n then .diagStall else .recv site .poll := by
  have hlevel : s.level .scl = 0 := (level_of_released (l := .scl) hscl).trans hv
  by_cases hn : s.cur.work.polls + 1 = n <;> simp [pollStep, hlevel, hm, hn]

section
variable {i : Instr} {site : RecvSite} {body : RecvPos → State → Out} {ret : State → State} {s : State}

/-- A poll is one step, whatever it reads. -/
theorem Receives.performs_poll {v : Level} (R : Receives i site body ret s) (hpos : s.cur.pos = .recv site .poll)
    (hscl : s.cur.scl = 1) (hv : s.envLevel = v) : Performs i [.r .scl v] s (pollStep site s) :=
  performs_one (by rw [R.runs .poll s hpos rfl rfl rfl, R.bit _ (by simp)]; rfl) (pollStep_upTo_afterOne hscl hv)

theorem Receives.congr (R : Receives i site body ret s) {t : State} (hlen : t.cur.len = s.cur.len)
    (hidx : t.cur.work.idx = s.cur.work.idx) (hphase : t.cur.work.phase = s.cur.work.phase) :
    Receives i site body ret t :=
  ⟨R.runs.congr hlen hidx hphase, R.bit, R.diag.congr hlen hidx hphase, R.fail.congr hlen hidx hphase⟩

/-- Where the rest of the polls up to the limit read 0, the last of them leads to the report of the stall. -/
theorem Receives.performs_pollsToStall {n : Nat} (R : Receives i site body ret s) (hpos : s.cur.pos = .recv site .poll)
    (hscl : s.cur.scl = 1) (hm : s.cfg.stretchLimit = some (s.cur.work.polls + (n + 1)))
    (hv : Presents s (List.replicate (n + 1) 0)) :
    ∃ t, Performs i (List.replicate (n + 1) (.r .scl 0)) s t ∧ t.cur.pos = .diagStall
      ∧ t.cur.work.idx = s.cur.work.idx ∧ t.cur.work.phase = s.cur.work.phase := by
  induction n generalizing s with
  | zero =>
    have hlow := presents_singleton.1 hv
    obtain ⟨-, hpos'⟩ := pollStep_counts (site := site) hscl hlow hm
    exact ⟨_, R.performs_poll hpos hscl hlow, hpos'.trans (if_pos rfl), by rw [pollStep_work], by rw [pollStep_work]⟩
  | succ n ih =>
    obtain ⟨hlow, -⟩ := presents_cons.1 hv
    have hone := R.performs_poll hpos hscl hlow
    obtain ⟨hpolls, hpos'⟩ := pollStep_counts (site := site) hscl hlow hm
    rw [if_neg (by omega)] at hpos'
    have hidx : (pollStep site s).cur.work.idx = s.cur.work.idx := by rw [pollStep_work]
    have hphase : (pollStep site s).cur.work.phase = s.cur.work.phase := by rw [pollStep_work]
    obtain ⟨t, hrest, htpos, htidx, htphase⟩ := ih (R.congr hone.upTo.after_len hidx hphase) hpos'
      ((pollStep_drive site s .scl).trans hscl) (by rw [hone.upTo.after_cfg, hm, hpolls]; congr 1; omega)
      (hone.upTo.presents_after hv)
    exact ⟨t, hone.trans hrest, htpos, htidx.trans hidx, htphase.trans hphase⟩

/-- The events of a receive_bit that stalls at its n-th poll, and of the report of the stall (40_bit_master R116). -/
def stallEvents (tUs n : Nat) : List Event :=
  lineEvents tUs raiseCode ++ (List.replicate n (.r .scl 0) ++ [.g .stall])

/-- The report of a stall, and finish(STALL) (40_bit_master R116). -/
theorem Receives.ends_diagStall (R : Receives i site body ret s) (hpos : s.cur.pos = .diagStall) :
    Ends i [.g .stall] 2 s := by
  have hdiag : exec i s = .next ((s.diag .stall).goto .finishStall) := R.diag () s hpos rfl rfl rfl
  refine (performs_one hdiag (upTo_goto _ _)).finish ?_
  rw [← resultStall_eq]
  exact R.fail () _ rfl rfl rfl rfl

/-- receive_bit from its first primitive, its polls up to the limit reading 0, ends the command in a stall
(40_bit_master R116). -/
theorem Receives.ends_stalled {n : Nat} (R : Receives i site body ret s) (hpos : s.cur.pos = .recv site (.raise 0))
    (hm : s.cfg.stretchLimit = some (n + 1)) (hv : Presents s (List.replicate (n + 1) 0)) :
    Ends i (stallEvents s.cfg.tUs (n + 1)) 2 s := by
  have hraise := R.runs.line (code := raiseCode)
    (ret := fun t => (t.setWork fun w => { w with polls := 0 }).goto (.recv site .poll)) .raise hpos (List.cons_ne_nil _ _)
    fun j u _ => by rw [R.bit _ (by simp)]; rfl
  refine hraise.ends (silent_work_goto _ _) fun u hu hw => ?_
  obtain ⟨hscl, -⟩ := after_raiseCode_released s.cfg.tUs s
  have R' : Receives i site body ret ((u.setWork fun w => { w with polls := 0 }).goto (.recv site .poll)) :=
    R.congr hu.after_len (by simp [hw]) (by simp [hw])
  obtain ⟨t, hpolls, htpos, htidx, htphase⟩ := R'.performs_pollsToStall (n := n) rfl (hu.scl.trans hscl)
    (by simpa [hu.after_cfg] using hm)
    ((silent_work_goto _ _ u).presents.2 (hu.presents_after (by rwa [levelsRead_lineEvents])))
  exact hpolls.ends ((R'.congr hpolls.upTo.after_len htidx htphase).ends_diagStall htpos)

end

/-- A command that stalls leaves both lines at 1 (40_bit_master R116). -/
theorem levelAfter_stallEvents (l : Line) (tUs n : Nat) (v : Level) : levelAfter l (stallEvents tUs n) v = 1 := by
  rw [stallEvents, levelAfter_append, levelAfter_append, levelAfter_polls]
  cases l <;> rfl

/-- A receive_bit at a position of the command stalls it. -/
theorem ends_stalled {i : Instr} {site : RecvSite} {n : Nat} {s : State} (ho : owns i s.cur = true)
    (hp : s.cur.pos = .recv site (.raise 0)) (hm : s.cfg.stretchLimit = some (n + 1))
    (hv : Presents s (List.replicate (n + 1) 0)) : Ends i (stallEvents s.cfg.tUs (n + 1)) 2 s := by
  obtain ⟨body, ret, R⟩ := receives_of_owns ho hp
  exact R.ends_stalled hp hm hv

/-- So does the receive_bit that RECV_BIT and RECV_BYTE begin with. -/
theorem ends_stalled_of_entry {i : Instr} {n : Nat} {s : State} (hi : i = .recvBit ∨ ∃ ack, i = .recvByte ack)
    (he : s.cur.pos = .entry) (hm : s.cfg.stretchLimit = some (n + 1)) (hv : Presents s (List.replicate (n + 1) 0)) :
    Ends i (stallEvents s.cfg.tUs (n + 1)) 2 s := by
  obtain ⟨hlegal, site, hp⟩ : i.reserved = false ∧ ∃ site, (beginCommand i s).cur.pos = .recv site (.raise 0) := by
    obtain rfl | ⟨ack, rfl⟩ := hi <;> exact ⟨rfl, _, rfl⟩
  have hbegin := silent_beginCommand i s
  obtain ⟨hown, -⟩ := beginCommand_owned hlegal s
  refine Ends.of_begin hlegal he ?_
  rw [← hbegin.cfg] at hm ⊢
  exact ends_stalled hown hp hm (hbegin.presents.2 hv)

/-- Settles O32: the command stalls at a receive_bit of its own (ends_stalled), or at its first (ends_stalled_of_entry). -/
theorem stallEndsEveryReceivingCommand : Obligations.StallEndsEveryReceivingCommand := by
  intro i site n s ho hpos hm hv
  have hpresents : Presents s (List.replicate (n + 1) 0) := by rw [Presents, List.length_replicate, hv]
  have hends : Ends i (stallEvents s.cfg.tUs (n + 1)) 2 s := by
    obtain hp | ⟨he, hi⟩ := hpos
    · exact ends_stalled ho hp hm hpresents
    · exact ends_stalled_of_entry hi he hm hpresents
  have hlen : n + 6 = (stallEvents s.cfg.tUs (n + 1)).length + 1 := by simp [stallEvents]; omega
  rw [hlen]
  exact hends.ended (by simp [stallEvents]) (levelAfter_stallEvents _ _ _ _) (levelAfter_stallEvents _ _ _ _)

/-- Settles O31: it is the case of RECV_BIT at its acceptance (stallEndsEveryReceivingCommand). -/
theorem recvBitStallsAtTheLimit : Obligations.RecvBitStallsAtTheLimit := fun n s he hm hv =>
  stallEndsEveryReceivingCommand .recvBit .bitCommand n s (owns_entry _ he) (.inr ⟨he, .inl rfl⟩) hm hv

end Sys2Proof.Machine
end

section
/-! PROOF. Where a Buffer Transfer command changes SDA: at the entry of start() and of stop(), at the first primitive of a bit, of
the release and of the acknowledge level, and to form START or STOP (40_bit_master R117, 42_buffer_master R160). -/

namespace Sys2Proof.Machine

/-- A change of SDA is SetLine of SDA, which leaves SCL. -/
theorem Primitive.scl_of_sda_ne {s t : State} (h : Primitive s t) (hne : t.cur.sda ≠ s.cur.sda) : t.cur.scl = s.cur.scl := by
  have hsda := (h.drive .sda).resolve_left hne
  refine (h.drive .scl).resolve_right fun hscl => ?_
  simp [hsda] at hscl

/-- From s to t SDA changes only if SCL is at 0 at s. -/
def ChangesSdaLow (s t : State) : Prop := t.cur.sda ≠ s.cur.sda → s.cur.scl = 0

theorem ChangesSdaLow.of_same {s t : State} (h : t.cur.sda = s.cur.sda) : ChangesSdaLow s t := fun hne => absurd h hne

/-! Straight lines of pseudocode. -/

/-- A straight line changes SDA only at a SetLine of SDA to another level. -/
theorem lineStep_changesSdaLow {code : List LineAct} {here : Nat → Pos} {ret : State → State} {k : Nat} {s t : State}
    (hr : Silent ret) (h : lineStep code here ret k s = .next t)
    (hlow : ∀ v, code[k]? = some (.set .sda v) → v ≠ s.cur.sda → s.cur.scl = 0) : ChangesSdaLow s t := by
  obtain ⟨a, ha, hnext⟩ := lineStep_next h
  have hup : UpTo t (a.perform s) := by
    obtain ⟨-, rfl⟩ | ⟨-, rfl⟩ := hnext
    · exact upTo_goto _ _
    · exact hr _
  intro hne
  rw [hup.sda] at hne
  exact hlow _ (ha.trans (congrArg some ((perform_drive a .sda s).resolve_left hne))) hne

/-- The procedures between start() and stop() drive SDA at their first primitive only, if at all. -/
theorem lineStep_changesSdaLow_of_first {code : List LineAct} {here : Nat → Pos} {ret : State → State} {k : Nat}
    {s t : State} (hr : Silent ret) (h : lineStep code here ret k s = .next t) (hfirst : ∀ v, .set .sda v ∉ code.tail)
    (hlow : k = 0 → s.cur.scl = 0) : ChangesSdaLow s t := by
  refine lineStep_changesSdaLow hr h fun v hv _ => hlow ?_
  cases k with
  | zero => rfl
  | succ k => exact absurd (List.mem_of_getElem? (i := k) (by rwa [List.getElem?_tail])) (hfirst v)

/-- start() changes SDA with SCL at 1 at its primitive 4 only, which forms START (40_bit_master R112). -/
theorem startStep_changesSdaLow {ret : State → State} {k : Nat} {s t : State} (hr : Silent ret)
    (h : startStep ret k s = .next t) (hlevels : startLevels k s.cur = true) (hk : k ≠ 4) : ChangesSdaLow s t := by
  refine lineStep_changesSdaLow hr h fun v hv hne => ?_
  match k with
  | 0 =>
    have hv : 1 = v := by simpa [startCode] using hv
    subst hv
    simp only [startLevels, Bool.or_eq_true, decide_eq_true_eq] at hlevels
    exact hlevels.resolve_right (Ne.symm hne)
  | 4 => exact absurd rfl hk
  | 1 | 2 | 3 | 5 | 6 | 7 | _ + 8 => simp [startCode] at hv

/-- stop() changes SDA with SCL at 1 at its primitive 4 only, which forms STOP (40_bit_master R113). -/
theorem stopStep_changesSdaLow {site : StopSite} {ret : State → State} {k : Nat} {s t : State} (hr : Silent ret)
    (h : stopStep site ret k s = .next t) (hlevels : stopLevels k s.cur = true) (hk : k ≠ 4) : ChangesSdaLow s t := by
  refine lineStep_changesSdaLow hr h fun v hv _ => ?_
  match k with
  | 0 => simpa [stopLevels] using hlevels
  | 4 => exact absurd rfl hk
  | 1 | 2 | 3 | 5 | _ + 6 => simp [stopCode] at hv

/-! Bytes. -/

theorem sendByteStep_changesSdaLow {site : SendSite} {ret : State → State} {p : SendPos} {s t : State} (hr : Silent ret)
    (h : sendByteStep site ret p s = .next t) (hlevels : sendLevels s.cur p = true) : ChangesSdaLow s t := by
  cases p with
  | bit k =>
    simp only [sendByteStep] at h
    exact lineStep_changesSdaLow_of_first (silent_nextSendBit site) h (by simp [sendBitCode])
      fun hk => by simpa [sendLevels, hk] using hlevels
  | release k =>
    simp only [sendByteStep] at h
    exact lineStep_changesSdaLow_of_first (silent_goto _) h (by simp [releaseCode])
      fun hk => by simpa [sendLevels, hk] using hlevels
  | sample =>
    cases h
    exact .of_same (State.getLine_cur_sda .sda s)
  | pulse k =>
    simp only [sendByteStep] at h
    exact lineStep_changesSdaLow_of_first (fun u => (hr _).trans (upTo_setWork _ _)) h (by simp [pulse9Code])
      fun hk => by simp_all [sendLevels]

theorem receiveBitStep_changesSdaLow {site : RecvSite} {ret : State → State} {p : RecvPos} {s t : State} (hr : Silent ret)
    (h : receiveBitStep site ret p s = .next t) (hlevels : recvLevels s.cur p = true) : ChangesSdaLow s t := by
  cases p with
  | raise k =>
    simp only [receiveBitStep] at h
    exact lineStep_changesSdaLow_of_first (silent_work_goto _ _) h (by simp [raiseCode])
      fun hk => by simpa [recvLevels, hk] using hlevels
  | poll =>
    cases h
    exact .of_same (pollStep_drive site s .sda)
  | sample =>
    cases h
    exact .of_same (State.getLine_cur_sda .sda s)
  | lower k =>
    simp only [receiveBitStep] at h
    exact lineStep_changesSdaLow hr h fun v hv => absurd (List.mem_of_getElem? hv) (by simp [lowerCode])
  | ack k => cases h

theorem receiveByteStep_changesSdaLow {site : RecvSite} {a : BitVec 1} {ret : State → State} {p : RecvPos} {s t : State}
    (hr : Silent ret) (h : receiveByteStep site a ret p s = .next t) (hlevels : recvLevels s.cur p = true) :
    ChangesSdaLow s t := by
  by_cases hp : ∃ k, p = .ack k
  · obtain ⟨k, rfl⟩ := hp
    simp only [receiveByteStep] at h
    exact lineStep_changesSdaLow_of_first hr h (by simp [ackCode, pulse9Code])
      fun hk => by simpa [recvLevels, hk] using hlevels
  · rw [receiveByteStep_bit (not_exists.1 hp)] at h
    exact receiveBitStep_changesSdaLow (silent_nextReceiveBit site) h hlevels

/-! Transactions. -/

theorem memReadStep_sda {src : Payload} {s t : State} (h : memReadStep src s = .next t) : t.cur.sda = s.cur.sda := by
  cases src with
  | field v => cases h
  | buffer off =>
    simp only [memReadStep, State.memRead] at h
    split at h
    · obtain ⟨n, hn⟩ := looked_eq (bufAddr s.cfg.addrW s.cur.txa off) (s.disturbedAt (bufAddr s.cfg.addrW s.cur.txa off)) s
      rw [hn] at h
      cases h
      rfl
    · cases h

theorem memWriteStep_sda {n : Nat} {s t : State} (h : memWriteStep n s = .next t) : t.cur.sda = s.cur.sda := by
  simp only [memWriteStep, State.memWrite] at h
  split at h
  · cases h
    exact ((silent_nextReceived n _).trans (upTo_setWork _ _)).sda
  · cases h

theorem writeStep_changesSdaLow {addr : BitVec 7} {n : Nat} {data : Nat → Payload} {ret : State → State} {s t : State}
    (hr : Silent ret) (h : writeStep addr n data ret s = .next t) (hlevels : transactionLevels s.cur = true)
    (hforms : formsCondition s.cur.pos = false) : ChangesSdaLow s t := by
  unfold writeStep at h
  split at h <;> rename_i hp <;> simp only [transactionLevels, hp, formsCondition, decide_eq_false_iff_not] at hlevels hforms
  · exact startStep_changesSdaLow (silent_callSendByte _ _) h hlevels hforms
  · exact sendByteStep_changesSdaLow
      (silent_afterAddress fun u => (silent_nextPayload n data _).trans (upTo_setWork _ _)) h hlevels
  · exact .of_same (memReadStep_sda h)
  · exact sendByteStep_changesSdaLow (silent_afterPayload n data) h hlevels
  · exact stopStep_changesSdaLow hr h hlevels hforms
  · exact stopStep_changesSdaLow (silent_goto _) h hlevels hforms
  · exact stopStep_changesSdaLow (silent_goto _) h hlevels hforms
  · cases h; exact .of_same rfl
  · cases h; exact .of_same rfl
  · cases h; exact .of_same rfl
  · cases h

theorem readStep_changesSdaLow {addr : BitVec 7} {n : Nat} {ret : State → State} {s t : State}
    (hr : Silent ret) (h : readStep addr n ret s = .next t) (hlevels : transactionLevels s.cur = true)
    (hforms : formsCondition s.cur.pos = false) : ChangesSdaLow s t := by
  unfold readStep at h
  split at h <;> rename_i hp <;> simp only [transactionLevels, hp, formsCondition, decide_eq_false_iff_not] at hlevels hforms
  · exact startStep_changesSdaLow (silent_callSendByte _ _) h hlevels hforms
  · exact sendByteStep_changesSdaLow
      (silent_afterAddress fun u => (silent_nextReceived n _).trans (upTo_setWork _ _)) h hlevels
  · exact receiveByteStep_changesSdaLow (silent_goto _) h hlevels
  · exact .of_same (memWriteStep_sda h)
  · exact stopStep_changesSdaLow hr h hlevels hforms
  · exact stopStep_changesSdaLow (silent_goto _) h hlevels hforms
  · cases h; exact .of_same rfl
  · cases h; exact .of_same rfl
  · cases h; exact .of_same rfl
  · cases h; exact .of_same rfl
  · cases h

/-- A Buffer Transfer command in flight, at its entry no more, is at a write or at a read transaction (42_buffer_master R161,
R162; 43_register_gateway R191 to R195). -/
theorem exec_of_isTransaction {i : Instr} {s : State} (hi : isTransaction i = true) (he : s.cur.pos ≠ .entry)
    (hf : s.cur.pos ≠ .finish) :
    (∃ addr n data ret, Silent ret ∧ exec i s = writeStep addr n data ret s)
      ∨ ∃ addr n ret, Silent ret ∧ exec i s = readStep addr n ret s := by
  have registerRead (addr : BitVec 7) (index : Byte) (n : Nat) :
      (∃ addr' n' data ret, Silent ret ∧ registerReadStep addr index n s = writeStep addr' n' data ret s)
        ∨ ∃ addr' n' ret, Silent ret ∧ registerReadStep addr index n s = readStep addr' n' ret s := by
    unfold registerReadStep
    split
    · exact .inl ⟨_, _, _, _, silent_beginPhase 1, rfl⟩
    · exact .inr ⟨_, _, _, silent_goto _, rfl⟩
  cases i with
  | write _ | wrRegIdx _ _ | wrReg _ _ _ | wrRegs _ _ =>
    exact .inl ⟨_, _, _, _, silent_goto _, exec_of_writePlan rfl he hf⟩
  | read _ => exact .inr ⟨_, _, _, silent_goto _, runsAs_read rfl s he hf rfl rfl⟩
  | rdReg addr index => simpa only [exec, execRdReg, enter_of_ne he] using registerRead addr index 1
  | rdRegs addr index => simpa only [exec, execRdRegs, enter_of_ne he] using registerRead addr index s.cur.len.toNat
  | _ => cases hi

theorem reserved_of_isTransaction {i : Instr} (hi : isTransaction i = true) : i.reserved = false := by
  cases i with
  | write _ | read _ | wrRegIdx _ _ | wrReg _ _ _ | wrRegs _ _ | rdReg _ _ | rdRegs _ _ => rfl
  | _ => cases hi

/-- A Buffer Transfer command begins with start() (42_buffer_master R161, R162; 43_register_gateway R191 to R195). -/
theorem beginCommand_pos_of_isTransaction {i : Instr} (hi : isTransaction i = true) (s : State) :
    (beginCommand i s).cur.pos = .start 0 := by
  cases i with
  | write _ | read _ | wrRegIdx _ _ | wrReg _ _ _ | wrRegs _ _ | rdReg _ _ | rdRegs _ _ => rfl
  | _ => cases hi

theorem exec_changesSdaLow {i : Instr} {s t : State} (hi : isTransaction i = true) (he : s.cur.pos ≠ .entry)
    (hlevels : transactionLevels s.cur = true) (hforms : formsCondition s.cur.pos = false) (h : exec i s = .next t) :
    ChangesSdaLow s t := by
  by_cases hf : s.cur.pos = .finish
  · rw [exec_finish (reserved_of_isTransaction hi) hf] at h
    cases h
    exact .of_same rfl
  · obtain ⟨_, _, _, _, hr, hx⟩ | ⟨_, _, _, hr, hx⟩ := exec_of_isTransaction hi he hf
    · exact writeStep_changesSdaLow hr (hx ▸ h) hlevels hforms
    · exact readStep_changesSdaLow hr (hx ▸ h) hlevels hforms

/-- At its entry a Buffer Transfer command performs the first primitive of start(). -/
theorem exec_changesSdaLow_of_entry {i : Instr} {s t : State} (hi : isTransaction i = true) (he : s.cur.pos = .entry)
    (hlevels : transactionLevels s.cur = true) (h : exec i s = .next t) : ChangesSdaLow s t := by
  have hbegin := silent_beginCommand i s
  have hpos := beginCommand_pos_of_isTransaction hi s
  rw [exec_entry (reserved_of_isTransaction hi) he] at h
  have hlow : ChangesSdaLow (beginCommand i s) t := by
    refine exec_changesSdaLow hi (by simp [hpos]) ?_ (by rw [hpos]; rfl) h
    simpa only [transactionLevels, he, hpos, startLevels, hbegin.scl, hbegin.sda] using hlevels
  rwa [ChangesSdaLow, hbegin.scl, hbegin.sda] at hlow

/-- Settles O58: SDA changes only where SCL is at 0 (exec_changesSdaLow), and the step that changes it leaves SCL
(Primitive.scl_of_sda_ne). -/
theorem sdaChangesOnlyWhileSclIsLow : Obligations.SdaChangesOnlyWhileSclIsLow := by
  intro i s t hi _ hlevels h hne hforms
  have hlow : s.cur.scl = 0 := by
    by_cases he : s.cur.pos = .entry
    · exact exec_changesSdaLow_of_entry hi he hlevels h hne
    · exact exec_changesSdaLow hi he hlevels hforms h hne
  exact ⟨hlow, ((exec_primitive h).scl_of_sda_ne hne).trans hlow⟩

end Sys2Proof.Machine
end

section
/-! PROOF. The byte commands: the order of a byte's bits, their first primitives, and their whole runs (41_byte_master R140 to
R143). -/

namespace Sys2Proof.Machine

/-! The order of the bits (41_byte_master R143). -/

/-- A byte is determined by its eight bits on the wire. -/
theorem eq_of_wireBits {d e : Byte} (h : ∀ k < 8, wireBit d k = wireBit e k) : d = e := by
  refine BitVec.eq_of_getLsbD_eq fun j hj => ?_
  have hplace : 7 - (7 - j) = j := by omega
  have hbit := congrArg (·.getLsbD 0) (h (7 - j) (by omega))
  simpa [wireBit, hplace] using hbit

/-- The bits received before a bit are the seven above it, the oldest dropped. -/
theorem shiftIn_high (d : Byte) (b : Level) : (shiftIn d b).extractLsb' 1 7 = d.extractLsb' 0 7 := by
  refine BitVec.eq_of_getLsbD_eq fun j hj => ?_
  have hlt : 1 + j < 8 := by omega
  simp [shiftIn, hlt, -BitVec.getLsbD_eq_getElem]

theorem wireBit_assembled {bits : List (Nat × Level)} {k : Nat} {b : Nat × Level} (h : bits.length = 8)
    (hb : bits[k]? = some b) : wireBit (assembled bits) k = b.2 := by
  have hk : k < 8 := h ▸ (List.getElem?_eq_some_iff.1 hb).1
  have hbit := congrArg (·[k]?) (wireBits_assembled h)
  simpa [hk, hb] using hbit

/-- Settles O5: a received bit goes in below the others (wireBit_shiftIn_last, shiftIn_high), so the bits of a byte received are
those of the wire (wireBit_assembled), which determine it (eq_of_wireBits). -/
theorem sentBitsAssembleToTheByte : Obligations.SentBitsAssembleToTheByte := by
  refine ⟨fun d k _ => rfl, fun d b => ⟨wireBit_shiftIn_last d b, shiftIn_high d b⟩,
    fun bits k b hlen hb => wireBit_assembled hlen hb, fun d k => eq_of_wireBits fun j hj => ?_⟩
  exact wireBit_assembled (b := (k j, wireBit d j)) (by simp) (by simp [hj])

/-! From the entry of the command. -/

theorem runsAt_sendByte (d : Byte) (s : State) :
    RunsAt (.sendByte d) (.send .command) (sendByteStep .command (State.goto .finish)) s := fun p u hp _ _ _ => by
  simp only [exec, execSendByte, State.enter, hp, reduceCtorEq, if_false]

/-- At its entry a command makes its first assignments and performs the first primitive of the straight line it stands at. -/
theorem exec_entry_of_begin {i : Instr} {code : List LineAct} {here : Nat → Pos} {ret : State → State} {s : State}
    (hi : i.reserved = false) (he : s.cur.pos = .entry)
    (hx : exec i (beginCommand i s) = lineStep code here ret 0 (beginCommand i s)) (hc : 1 < code.length) :
    exec i s = .next ((code[0].perform (beginCommand i s)).goto (here 1)) := by
  rw [exec_entry hi he, hx, lineStep_eq (Nat.zero_lt_of_lt hc), if_pos hc]

/-- Settles O18: SEND_BYTE begins with the send_bit of its bit 7, RECV_BYTE with receive_bit (exec_entry_of_begin). -/
theorem byteCommandsFirstPrimitive : Obligations.ByteCommandsFirstPrimitive := by
  intro s d a he
  have hsend := exec_entry_of_begin (i := .sendByte d) (code := sendBitCode (wireBit d 0))
    (here := fun j => .send .command (.bit j)) (ret := nextSendBit .command) rfl he
    (runsAt_sendByte d _ (.bit 0) _ rfl rfl rfl rfl) (by simp)
  have hrecv := exec_entry_of_begin (i := .recvByte a) (code := raiseCode)
    (here := fun j => .recv .byteCommand (.raise j))
    (ret := fun t => (t.setWork fun w => { w with polls := 0 }).goto (.recv .byteCommand .poll)) rfl he
    ((receives_recvByte a _).runs (.raise 0) _ rfl rfl rfl rfl) (by simp)
  exact ⟨hsend, hrecv⟩

/-! The whole commands. -/

/-- SEND_BYTE's RESULT word, by its acknowledge sample (30_encoding R94, R96; 41_byte_master R141). -/
theorem ackOf_result (v : Level) : (ackOf v).zeroExtend 32 <<< 2 = if v = 0 then (4 : Word) else 0 := by
  revert v
  decide

/-- Settles O34: SEND_BYTE is send_byte (calls_sendByte) and the finish with its acknowledgement. -/
theorem sendByteReportsTheAcknowledge : Obligations.SendByteReportsTheAcknowledge := by
  intro d s he
  have hsend := calls_sendByte (s := beginCommand (.sendByte d) s) (runsAt_sendByte d _) rfl rfl rfl rfl
  have hends : Ends (.sendByte d) (sendByteEvents s.cfg.tUs d s.envLevel) (if s.envLevel = 0 then 4 else 0) s :=
    Ends.of_begin rfl he (hsend.ends_finish rfl fun w hw => by rw [hw]; exact ackOf_result s.envLevel)
  have hlen : 49 = (sendByteEvents s.cfg.tUs d s.envLevel).length + 1 := by simp [sendByteEvents, List.length_flatMap]
  rw [hlen]
  exact hends.ended (bytesStored_sendByteEvents _ _ _)
    (by rw [sendByteEvents, levelAfter_append, levelAfter_append]; rfl)
    (by rw [sendByteEvents, levelAfter_append, levelAfter_append]; rfl)

/-- Settles O35: RECV_BYTE is receive_byte (calls_receiveByte) and the finish with its byte. -/
theorem recvByteReturnsTheByte : Obligations.RecvByteReturnsTheByte := by
  intro ack bits s he hlen hv hlimit
  have hbyte := calls_receiveByte (receives_recvByte ack (beginCommand (.recvByte ack) s)).runs rfl rfl rfl hlen
    ((silent_beginCommand (.recvByte ack) s).presents.2 hv) hlimit
  have hends : Ends (.recvByte ack) (receiveByteEvents s.cfg.tUs bits ack) ((assembled bits).zeroExtend 32 <<< 3) s :=
    Ends.of_begin rfl he (hbyte.ends_finish rfl fun w ⟨hshift, _⟩ => by rw [← hshift]; rfl)
  exact hends.ended (bytesStored_receiveByteEvents _ _ _) (by rw [receiveByteEvents, levelAfter_append]; rfl)
    (by rw [receiveByteEvents, levelAfter_append]; rfl)

end Sys2Proof.Machine
end

section
/-! PROOF. The line levels of a Buffer Transfer command: each straight line of its pseudocode takes them from one position to
the next, and each call and return finds the levels of the position it goes to (42_buffer_master R160, R164; 40_bit_master
R119). With them, how such a command begins and ends. -/

namespace Sys2Proof.Machine

/-! What a procedure leaves of the lines. -/

/-- SCL is at 0, as every send_byte, receive_byte and stop() is entered (42_buffer_master R160). -/
def sclLow (q : PortState) : Bool := q.scl = 0

/-- Both lines are at 1, as stop() leaves them (42_buffer_master R164). -/
def bothReleased (q : PortState) : Bool := q.scl = 1 && q.sda = 1

/-! Straight lines of pseudocode. -/

/-- A straight line keeps these levels: those of primitive k before it, those of the next after it, and `out` at its end. -/
def LineKeeps (code : List LineAct) (levels : Nat → PortState → Bool) (out : PortState → Bool) : Prop :=
  ∀ (k : Nat) (hk : k < code.length) (s : State), levels k s.cur = true →
    (if k + 1 < code.length then levels (k + 1) else out) (code[k].perform s).cur = true

/-- A port driven at these levels. -/
def driven (scl sda : Level) : PortState := { PortState.reset 0 with scl := scl, sda := sda }

/-- That a straight line keeps its levels is a finite check, where they depend on the drive levels only. -/
theorem lineKeeps_of_check {code : List LineAct} {levels : Nat → PortState → Bool} {out : PortState → Bool}
    (hlevels : ∀ k q, levels k q = levels k (driven q.scl q.sda)) (hout : ∀ q, out q = out (driven q.scl q.sda))
    (hcheck : ∀ k (hk : k < code.length) (scl sda : Level), levels k (driven scl sda) = true →
      (if k + 1 < code.length then levels (k + 1) else out)
        (driven (lineLevel .scl [code[k]] scl) (lineLevel .sda [code[k]] sda)) = true) :
    LineKeeps code levels out := by
  intro k hk s h
  rw [hlevels] at h
  have hnext := hcheck k hk _ _ h
  rw [perform_eq]
  by_cases hlast : k + 1 < code.length
  · rw [if_pos hlast] at hnext ⊢
    rwa [hlevels]
  · rw [if_neg hlast] at hnext ⊢
    rwa [hout]

theorem lineKeeps_start : LineKeeps startCode startLevels sclLow :=
  lineKeeps_of_check (fun _ _ => rfl) (fun _ => rfl) (by decide)

theorem lineKeeps_stop : LineKeeps stopCode stopLevels bothReleased :=
  lineKeeps_of_check (fun _ _ => rfl) (fun _ => rfl) (by decide)

theorem lineKeeps_sendBit (b : Level) : LineKeeps (sendBitCode b) (fun k q => sendLevels q (.bit k)) sclLow :=
  lineKeeps_of_check (fun _ _ => rfl) (fun _ => rfl) (by revert b; decide)

theorem lineKeeps_release : LineKeeps releaseCode (fun k q => sendLevels q (.release k)) (sendLevels · .sample) :=
  lineKeeps_of_check (fun _ _ => rfl) (fun _ => rfl) (by decide)

theorem lineKeeps_pulse9 : LineKeeps pulse9Code (fun k q => sendLevels q (.pulse k)) sclLow :=
  lineKeeps_of_check (fun _ _ => rfl) (fun _ => rfl) (by decide)

theorem lineKeeps_raise : LineKeeps raiseCode (fun k q => recvLevels q (.raise k)) (recvLevels · .poll) :=
  lineKeeps_of_check (fun _ _ => rfl) (fun _ => rfl) (by decide)

theorem lineKeeps_lower : LineKeeps lowerCode (fun k q => recvLevels q (.lower k)) sclLow :=
  lineKeeps_of_check (fun _ _ => rfl) (fun _ => rfl) (by decide)

theorem lineKeeps_ack (a : BitVec 1) : LineKeeps (ackCode a) (fun k q => recvLevels q (.ack k)) sclLow :=
  lineKeeps_of_check (fun _ _ => rfl) (fun _ => rfl) (by revert a; decide)

/-! The calls and returns between them. -/

/-- From a port of which `levels` holds, this move of the sequencer goes to a position whose levels the port meets. -/
def MeetsLevels (levels : PortState → Bool) (f : State → State) : Prop :=
  ∀ u : State, levels u.cur = true → transactionLevels (f u).cur = true

theorem lineStep_levels {code : List LineAct} {levels : Nat → PortState → Bool} {out : PortState → Bool}
    {here : Nat → Pos} {ret : State → State} {k : Nat} {s t : State} (h : lineStep code here ret k s = .next t)
    (hlevels : levels k s.cur = true) (hcode : LineKeeps code levels out)
    (hhere : ∀ j, MeetsLevels (levels j) (State.goto (here j))) (hret : MeetsLevels out ret) :
    transactionLevels t.cur = true := by
  obtain ⟨a, ha, hnext⟩ := lineStep_next h
  obtain ⟨hk, rfl⟩ := List.getElem?_eq_some_iff.1 ha
  have hafter := hcode k hk s hlevels
  obtain ⟨hlast, rfl⟩ | ⟨hlast, rfl⟩ := hnext
  · rw [if_pos hlast] at hafter
    exact hhere _ _ hafter
  · rw [if_neg hlast] at hafter
    exact hret _ hafter

theorem nextSendBit_levels (site : SendSite) : MeetsLevels sclLow (nextSendBit site) := fun u hu => by
  simp only [nextSendBit]
  split
  · exact hu
  · exact (Bool.and_true _).trans hu

theorem nextReceiveBit_levels (site : RecvSite) : MeetsLevels sclLow (nextReceiveBit site) := fun u hu => by
  simp only [nextReceiveBit]
  split
  · exact (Bool.and_true _).trans hu
  · exact hu

theorem nextPayload_levels (n : Nat) (data : Nat → Payload) : MeetsLevels sclLow (nextPayload n data) := fun u hu => by
  simp only [nextPayload]
  split
  · split <;> exact hu
  · exact hu

theorem afterPayload_levels (n : Nat) (data : Nat → Payload) : MeetsLevels sclLow (afterPayload n data) := fun u hu => by
  simp only [afterPayload]
  split
  · exact hu
  · exact nextPayload_levels n data _ hu

theorem callReceiveByte_levels (site : RecvSite) : MeetsLevels sclLow (callReceiveByte site) := fun _ hu =>
  (Bool.and_true _).trans hu

theorem nextReceived_levels (n : Nat) : MeetsLevels sclLow (nextReceived n) := fun u hu => by
  simp only [nextReceived]
  split
  · exact callReceiveByte_levels .payload u hu
  · exact hu

theorem afterAddress_levels {go : State → State} (hgo : MeetsLevels sclLow go) : MeetsLevels sclLow (afterAddress go) :=
  fun u hu => by
    simp only [afterAddress]
    split
    · exact hu
    · exact hgo u hu

theorem beginPhase_levels (p : BitVec 1) : MeetsLevels bothReleased (beginPhase p) := fun u hu => by
  simp_all [beginPhase, transactionLevels, startLevels, bothReleased]

/-- A poll leaves both lines as they are, wherever it goes on (40_bit_master R115, R116). -/
theorem pollStep_levels (site : RecvSite) : MeetsLevels (recvLevels · .poll) (pollStep site) := fun u hu => by
  have hscl : (pollStep site u).cur.scl = u.cur.scl := pollStep_drive site u .scl
  have hsda : (pollStep site u).cur.sda = u.cur.sda := pollStep_drive site u .sda
  simp only [recvLevels, Bool.and_eq_true, decide_eq_true_eq] at hu
  obtain hpos | hpos | hpos := pollStep_next site u <;> simp [transactionLevels, recvLevels, hpos, hscl, hsda, hu]

/-! Bytes. -/

theorem sendByteStep_levels {site : SendSite} {ret : State → State} {p : SendPos} {s t : State}
    (h : sendByteStep site ret p s = .next t) (hlevels : sendLevels s.cur p = true) (hret : MeetsLevels sclLow ret) :
    transactionLevels t.cur = true := by
  cases p with
  | bit k =>
    simp only [sendByteStep] at h
    exact lineStep_levels h hlevels (lineKeeps_sendBit _) (fun _ _ hu => hu) (nextSendBit_levels site)
  | release k =>
    simp only [sendByteStep] at h
    exact lineStep_levels h hlevels lineKeeps_release (fun _ _ hu => hu) (fun _ hu => hu)
  | sample =>
    cases h
    simp_all [transactionLevels, sendLevels]
  | pulse k =>
    simp only [sendByteStep] at h
    exact lineStep_levels h hlevels lineKeeps_pulse9 (fun _ _ hu => hu) (fun u hu => hret _ hu)

theorem receiveBitStep_levels {site : RecvSite} {ret : State → State} {p : RecvPos} {s t : State}
    (h : receiveBitStep site ret p s = .next t) (hlevels : recvLevels s.cur p = true) (hret : MeetsLevels sclLow ret) :
    transactionLevels t.cur = true := by
  cases p with
  | raise k =>
    simp only [receiveBitStep] at h
    exact lineStep_levels h hlevels lineKeeps_raise (fun _ _ hu => hu) (fun _ hu => hu)
  | poll =>
    cases h
    exact pollStep_levels site s hlevels
  | sample =>
    cases h
    simp_all [transactionLevels, recvLevels]
  | lower k =>
    simp only [receiveBitStep] at h
    exact lineStep_levels h hlevels lineKeeps_lower (fun _ _ hu => hu) hret
  | ack k => cases h

theorem receiveByteStep_levels {site : RecvSite} {a : BitVec 1} {ret : State → State} {p : RecvPos} {s t : State}
    (h : receiveByteStep site a ret p s = .next t) (hlevels : recvLevels s.cur p = true) (hret : MeetsLevels sclLow ret) :
    transactionLevels t.cur = true := by
  by_cases hp : ∃ k, p = .ack k
  · obtain ⟨k, rfl⟩ := hp
    simp only [receiveByteStep] at h
    exact lineStep_levels h hlevels (lineKeeps_ack a) (fun _ _ hu => hu) hret
  · rw [receiveByteStep_bit (not_exists.1 hp)] at h
    exact receiveBitStep_levels h hlevels (nextReceiveBit_levels site)

/-! Transactions. -/

theorem startStep_levels {ret : State → State} {k : Nat} {s t : State} (h : startStep ret k s = .next t)
    (hlevels : startLevels k s.cur = true) (hret : MeetsLevels sclLow ret) : transactionLevels t.cur = true :=
  lineStep_levels h hlevels lineKeeps_start (fun _ _ hu => hu) hret

theorem stopStep_levels {site : StopSite} {ret : State → State} {k : Nat} {s t : State}
    (h : stopStep site ret k s = .next t) (hlevels : stopLevels k s.cur = true) (hret : MeetsLevels bothReleased ret) :
    transactionLevels t.cur = true :=
  lineStep_levels h hlevels lineKeeps_stop (fun _ _ hu => hu) hret

/-- The byte read of the send buffer is handed to send_byte, the lines as they were (42_buffer_master R161). -/
theorem memReadStep_levels {src : Payload} {s t : State} (h : memReadStep src s = .next t) (hlow : sclLow s.cur = true) :
    transactionLevels t.cur = true := by
  cases src with
  | field v => cases h
  | buffer off =>
    simp only [memReadStep, State.memRead] at h
    split at h
    · obtain ⟨n, hn⟩ := looked_eq (bufAddr s.cfg.addrW s.cur.txa off) (s.disturbedAt (bufAddr s.cfg.addrW s.cur.txa off)) s
      rw [hn] at h
      cases h
      exact hlow
    · cases h

theorem memWriteStep_levels {n : Nat} {s t : State} (h : memWriteStep n s = .next t) (hlow : sclLow s.cur = true) :
    transactionLevels t.cur = true := by
  simp only [memWriteStep, State.memWrite] at h
  split at h
  · cases h
    exact nextReceived_levels n _ hlow
  · cases h

theorem writeStep_levels {addr : BitVec 7} {n : Nat} {data : Nat → Payload} {ret : State → State} {s t : State}
    (h : writeStep addr n data ret s = .next t) (hlevels : transactionLevels s.cur = true)
    (hret : MeetsLevels bothReleased ret) : transactionLevels t.cur = true := by
  have hsame := hlevels
  unfold writeStep at h
  split at h <;> rename_i hp <;> simp only [transactionLevels, hp] at hlevels
  · exact startStep_levels h hlevels (fun _ hu => hu)
  · exact sendByteStep_levels h hlevels (afterAddress_levels fun u hu => nextPayload_levels n data _ hu)
  · exact memReadStep_levels h hlevels
  · exact sendByteStep_levels h hlevels (afterPayload_levels n data)
  · exact stopStep_levels h hlevels hret
  · exact stopStep_levels h hlevels (fun _ hu => hu)
  · exact stopStep_levels h hlevels (fun _ hu => hu)
  · cases h; exact hlevels
  · cases h; exact hlevels
  · cases h; exact hsame
  · cases h

theorem readStep_levels {addr : BitVec 7} {n : Nat} {ret : State → State} {s t : State}
    (h : readStep addr n ret s = .next t) (hlevels : transactionLevels s.cur = true)
    (hret : MeetsLevels bothReleased ret) : transactionLevels t.cur = true := by
  have hsame := hlevels
  unfold readStep at h
  split at h <;> rename_i hp <;> simp only [transactionLevels, hp] at hlevels
  · exact startStep_levels h hlevels (fun _ hu => hu)
  · exact sendByteStep_levels h hlevels (afterAddress_levels fun u hu => nextReceived_levels n _ hu)
  · exact receiveByteStep_levels h hlevels (fun _ hu => hu)
  · exact memWriteStep_levels h hlevels
  · exact stopStep_levels h hlevels hret
  · exact stopStep_levels h hlevels (fun _ hu => hu)
  · cases h; exact hlevels
  · cases h; exact hsame
  · cases h; exact hlevels
  · cases h; exact hsame
  · cases h

/-! Commands. -/

/-- Past its entry a Buffer Transfer command keeps the levels: it is in a write or a read, which goes on after stop() to the
finish or to the second phase, or it finishes (42_buffer_master R161, R162; 43_register_gateway R191 to R195). -/
theorem exec_levels {i : Instr} {s t : State} (hi : isTransaction i = true) (he : s.cur.pos ≠ .entry)
    (h : exec i s = .next t) (hlevels : transactionLevels s.cur = true) : transactionLevels t.cur = true := by
  by_cases hf : s.cur.pos = .finish
  · rw [exec_finish (reserved_of_isTransaction hi) hf] at h
    cases h
    exact hlevels
  have finish : MeetsLevels bothReleased (State.goto .finish) := fun _ hu => hu
  have registerRead {addr : BitVec 7} {index : Byte} {n : Nat} (hstep : registerReadStep addr index n s = .next t) :
      transactionLevels t.cur = true := by
    unfold registerReadStep at hstep
    split at hstep
    · exact writeStep_levels hstep hlevels (beginPhase_levels 1)
    · exact readStep_levels hstep hlevels finish
  cases i with
  | write _ | wrRegIdx _ _ | wrReg _ _ _ | wrRegs _ _ =>
    exact writeStep_levels ((exec_of_writePlan rfl he hf).symm.trans h) hlevels finish
  | read _ => exact readStep_levels ((runsAs_read rfl s he hf rfl rfl).symm.trans h) hlevels finish
  | rdReg _ _ =>
    simp only [exec, execRdReg, enter_of_ne he] at h
    exact registerRead h
  | rdRegs _ _ =>
    simp only [exec, execRdRegs, enter_of_ne he] at h
    exact registerRead h
  | _ => cases hi

/-- Settles O57: past its entry a command keeps the levels (exec_levels); at its entry it is at the first primitive of start(),
whose levels are those of the entry. -/
theorem transactionKeepsItsLineLevels : Obligations.TransactionKeepsItsLineLevels := by
  intro i s t hi _ hlevels h
  by_cases he : s.cur.pos = .entry
  · have hbegin := silent_beginCommand i s
    have hpos := beginCommand_pos_of_isTransaction hi s
    rw [exec_entry (reserved_of_isTransaction hi) he] at h
    refine exec_levels hi (by simp [hpos]) h ?_
    simpa only [transactionLevels, he, hpos, startLevels, hbegin.scl, hbegin.sda] using hlevels
  · exact exec_levels hi he h hlevels

/-- Settles O59: a command that ends is at a finish (exec_ends), where both lines are released and stay so. -/
theorem transactionEndsWithBothLinesReleased : Obligations.TransactionEndsWithBothLinesReleased := by
  intro i s t hi _ hlevels hb h hb'
  obtain ⟨e, hlog⟩ | hfinish := (exec_primitive h).logsOne_or_finish
  · exact absurd (hlog.busy.symm.trans hb') (by simp [hb])
  · have hreleased : s.cur.scl = 1 ∧ s.cur.sda = 1 := by
      obtain hp | hp | hp := exec_ends (reserved_of_isTransaction hi) hb h hb' <;> simpa [transactionLevels, hp] using hlevels
    rw [hfinish]
    exact hreleased

/-- At its entry a Buffer Transfer command performs SetLine(SDA, 1), the first primitive of start() (42_buffer_master R161,
R162). -/
theorem exec_entry_of_isTransaction {i : Instr} {s : State} (hi : isTransaction i = true) (he : s.cur.pos = .entry) :
    exec i s = .next (((beginCommand i s).setLine .sda 1).goto (.start 1)) := by
  have hpos := beginCommand_pos_of_isTransaction hi s
  rw [exec_entry (reserved_of_isTransaction hi) he]
  obtain ⟨addr, n, data, ret, -, hx⟩ | ⟨addr, n, ret, -, hx⟩ :=
    exec_of_isTransaction (s := beginCommand i s) hi (by simp [hpos]) (by simp [hpos])
  · exact hx.trans ((transaction_write addr n data ret).start 0 _ hpos)
  · exact hx.trans ((transaction_read addr n ret).start 0 _ hpos)

/-- Settles O19: each of the commands is at the first primitive of start() (exec_entry_of_isTransaction). -/
theorem transactionCommandsFirstPrimitive : Obligations.TransactionCommandsFirstPrimitive := by
  intro s a x v he
  refine ⟨?_, ?_, ?_, ?_, ?_, ?_, ?_⟩ <;> exact exec_entry_of_isTransaction rfl he

end Sys2Proof.Machine
end

section
/-! PROOF. Whole commands of one transaction, all acknowledged: WRITE and the register writes, and READ (42_buffer_master R161,
R162, R165; 43_register_gateway R191 to R193). -/

namespace Sys2Proof.Machine

/-- A run to the finish whose events release both lines ends the command so, with caller memory as its events leave it. -/
theorem Ends.ended_released {i : Instr} {evs : List Event} {r : Word} {s : State} (h : Ends i evs r s)
    (hrel : Releases evs) :
    ∃ t, execN i (evs.length + 1) s = .next t ∧ Ended s t evs 1 1 r ∧ t.mem = (s.after evs).mem := by
  obtain ⟨u, hrun, hu⟩ := h
  obtain ⟨hcmd, hlen, htxa, hrxa, -, hcfg, hsel, hothers, hwritable, hinbox, hreplies, hturn⟩ :=
    (sameAgents_after evs s).of_upTo hu
  obtain ⟨hscl, hsda⟩ := hrel s
  exact ⟨u.finish r, hrun, ⟨hu.after_history, rfl, rfl, rfl, hu.scl.trans hscl, hu.sda.trans hsda, hcmd, hlen, htxa, hrxa,
    hsel, hothers, hcfg, hwritable, hinbox, hreplies, hturn⟩, hu.mem⟩

/-- Settles O36: the run of the write (ends_write), which stores no byte (WriteOutcome.bytesStored_events). -/
theorem writeCommandsSucceedWhenAcknowledged : Obligations.WriteCommandsSucceedWhenAcknowledged := by
  intro i s n data d hpos hw hb hd hpull hv
  have hwrite := ends_write (o := .acknowledged) hw hpos (fun j hj => gives_of_payloadByte (hb j hj) hd)
    ⟨hpull, by simpa [Presents, List.replicate_succ] using hv⟩
  obtain ⟨t, hrun, hended, hmem⟩ := hwrite.ended_released WriteOutcome.acknowledged.releases
  rw [State.after_mem, WriteOutcome.acknowledged.bytesStored_events] at hmem
  exact ⟨t, hrun, hended, hmem⟩

/-- A read stores its bytes one after another at their places in the receive buffer (42_buffer_master R162). -/
theorem bytesStored_readEvents (tUs : Nat) (addrOf : Nat → Nat) (addr : BitVec 7) (bs : Nat → List (Nat × Level))
    (n : Nat) : bytesStored (readEvents tUs addrOf addr bs n) = (List.range n).map fun j => (addrOf j, assembled (bs j)) := by
  simp [readEvents, startEvents, stopEvents, receivedEvents, bytesStored_flatMap, ← List.map_eq_flatMap]

/-- Settles O39: the run of the read (calls_read), whose bytes are stored one after another (bytesStored_readEvents). -/
theorem readStoresTheReceivedBytes : Obligations.ReadStoresTheReceivedBytes := by
  intro addr s bs hpos hbs hpull hv
  have hpresents : Presents (beginCommand (.read addr) s) (readEnv bs s.cur.len.toNat) :=
    (silent_beginCommand (.read addr) s).presents.2 hv
  have hlen : s.cur.len.toNat ≤ 65536 := s.cur.len.isLt.le
  have hread := calls_read (i := .read addr) (addr := addr) (s := beginCommand (.read addr) s) (runsAs_read rfl) rfl hlen hbs
    hpull hpresents
  have hends : Ends (.read addr) _ 0 s := Ends.of_begin rfl hpos (hread.ends_finish rfl fun _ _ => rfl)
  obtain ⟨t, hrun, hended, hmem⟩ := hends.ended_released (releases_readEvents _ _ _ _ _)
  refine ⟨t, hrun, hended, hmem.trans ?_⟩
  rw [State.after_mem, bytesStored_readEvents, List.foldl_map]
  rfl

end Sys2Proof.Machine
end

section
/-! PROOF. RD_REG and RD_REGS: the index write, then the read, each a transaction with its own START and STOP
(43_register_gateway R194 to R197; 60_exceptions R211, R212, R217). -/

namespace Sys2Proof.Machine

/-- As long as LEN is that of s, the command is the composite read of n bytes from the register `index` (43_register_gateway
R194, R195). -/
structure RegisterRead (i : Instr) (addr : BitVec 7) (index : Byte) (n : Nat) (s : State) : Prop where
  legal : i.reserved = false
  begins : beginCommand i = beginPhase 0
  runs : ∀ u, u.cur.pos ≠ .entry → u.cur.pos ≠ .finish → u.cur.len = s.cur.len → exec i u = registerReadStep addr index n u

theorem registerRead_rdReg (addr : BitVec 7) (index : Byte) (s : State) :
    RegisterRead (.rdReg addr index) addr index 1 s :=
  ⟨rfl, rfl, fun u he hf _ => by simp only [exec, execRdReg, enter_of_ne he]⟩

theorem registerRead_rdRegs (addr : BitVec 7) (index : Byte) (s : State) :
    RegisterRead (.rdRegs addr index) addr index s.cur.len.toNat s :=
  ⟨rfl, rfl, fun u he hf hl => by simp only [exec, execRdRegs, enter_of_ne he, hl]⟩

theorem exists_registerRead {i : Instr} {addr : BitVec 7} {index : Byte} (s : State)
    (hi : i = .rdReg addr index ∨ i = .rdRegs addr index) : ∃ n, RegisterRead i addr index n s := by
  obtain rfl | rfl := hi
  · exact ⟨1, registerRead_rdReg addr index s⟩
  · exact ⟨s.cur.len.toNat, registerRead_rdRegs addr index s⟩

theorem bytesStored_indexWriteEvents (addr : BitVec 7) (index : Byte) (s : State) :
    bytesStored (indexWriteEvents addr index s) = [] := WriteOutcome.acknowledged.bytesStored_events ..

/-- A run to the finish that stores no byte and releases both lines ends the command so, with caller memory as it was. -/
theorem Ends.ended_unstored {i : Instr} {evs : List Event} {r : Word} {s : State} (h : Ends i evs r s)
    (hrel : Releases evs) (hnone : bytesStored evs = []) :
    ∃ t, execN i (evs.length + 1) s = .next t ∧ Ended s t evs 1 1 r ∧ t.mem = s.mem := by
  obtain ⟨t, hrun, hended, hmem⟩ := h.ended_released hrel
  rw [State.after_mem, hnone] at hmem
  exact ⟨t, hrun, hended, hmem⟩

section
variable {i : Instr} {addr : BitVec 7} {index : Byte} {n : Nat} {s : State}

/-- While PHASE is 0 a composite read is the index write, which leads to the second phase. -/
theorem RegisterRead.runsAs_index (R : RegisterRead i addr index n s) :
    RunsAs i (writeStep addr 1 (payloadIndex index) (beginPhase 1)) (beginPhase 0 s) := fun u he hf hl hph => by
  have hzero : u.cur.work.phase = 0 := hph
  rw [R.runs u he hf hl, registerReadStep, if_pos hzero]

/-- Once PHASE is 1 a composite read is the read of its n bytes, after which it finishes. -/
theorem RegisterRead.runsAs_read (R : RegisterRead i addr index n s) {y : State} (hlen : y.cur.len = s.cur.len)
    (hphase : y.cur.work.phase = 1) : RunsAs i (readStep addr n (State.goto .finish)) y := fun u he hf hl hph => by
  have hne : u.cur.work.phase ≠ 0 := by rw [hph, hphase]; decide
  rw [R.runs u he hf (hl.trans hlen), registerReadStep, if_neg hne]

/-- An index write that is not acknowledged ends the composite read: the read is not attempted (43_register_gateway R196). -/
theorem RegisterRead.ends_indexFailed (R : RegisterRead i addr index n s) (hpos : s.cur.pos = .entry) {o : WriteOutcome}
    (ho : o.Occurs s 1) (hfails : o ≠ .acknowledged) :
    Ends i (o.events s.cfg.tUs (bufAddr s.cfg.addrW s.cur.txa) addr (payloadIndex index) (fun _ => index) 1) o.result s := by
  have ho' : o.Occurs (beginPhase 0 s) 1 :=
    ho.congr rfl (nextLevels_congr (s := beginPhase 0 s) (t := s) rfl rfl rfl rfl _)
  refine Ends.of_begin R.legal hpos ?_
  rw [R.begins]
  exact ends_writeFailed R.runsAs_index rfl (by decide) (fun _ _ => rfl) ho' hfails

/-- An acknowledged index write leads to the START of the read, and the composite read ends as the read does
(43_register_gateway R194, R195, R197). -/
theorem RegisterRead.ends_indexWrite {evs : List Event} {r : Word} (R : RegisterRead i addr index n s)
    (hpos : s.cur.pos = .entry) (hpull : s.cfg.pulledUp s.sel = true) (hv : Presents s [0, 0])
    (hread : ∀ y, AtRead s y → RunsAs i (readStep addr n (State.goto .finish)) y → Ends i evs r y) :
    Ends i (indexWriteEvents addr index s ++ evs) r s := by
  have hwrite : Calls i (indexWriteEvents addr index s) (beginPhase 1) (beginPhase 0 s) _ :=
    calls_write R.runsAs_index rfl (by decide) (fun _ _ => rfl) hpull ((silent_beginPhase 0 s).presents.2 hv)
  refine Ends.of_begin R.legal hpos ?_
  rw [R.begins]
  refine hwrite.ends (silent_beginPhase 1) fun x hx _ => ?_
  have hxs := hx.trans (upTo_after _ (silent_beginPhase 0 s))
  exact hread _ (atRead_of_upTo hxs rfl rfl rfl hxs.after_rxa rfl rfl rfl) (R.runsAs_read hxs.after_len rfl)

/-- The read that follows the index write, its address not acknowledged. -/
theorem AtRead.ends_addressNack {ret : State → State} {y : State} (hy : AtRead s y) (h : RunsAs i (readStep addr n ret) y)
    (hv : Presents s [0, 0, 1]) : Ends i (addrNackEvents s.cfg.tUs addr 1 1) 1 y := by
  rw [← hy.cfg]
  exact ends_addressFailed h (transaction_read addr n ret) ((silent_nextReceived n).comp fun u => upTo_setWork u _) hy.pos
    (presents_singleton.1 (hy.presents [1] hv)) (.inl rfl)

/-- The read that follows the index write, of n bytes, each received and stored in the receive buffer of s. -/
theorem AtRead.calls_readBytes {ret : State → State} {y : State} {bs : Nat → List (Nat × Level)} (hy : AtRead s y)
    (h : RunsAs i (readStep addr n ret) y) (hn : n ≤ 65536)
    (hbs : ∀ j < n, (bs j).length = 8 ∧ withinLimit s (bs j) ∧ s.mayWrite (bufAddr s.cfg.addrW s.cur.rxa j) = true)
    (hpull : s.cfg.pulledUp s.sel = true) (hv : Presents s (0 :: 0 :: readEnv bs n)) :
    Calls i (readEvents s.cfg.tUs (bufAddr s.cfg.addrW s.cur.rxa) addr bs n) ret y
      fun w => 0 < n → w.shift = assembled (bs (n - 1)) := by
  have hroom : ∀ a, y.mayWrite a = s.mayWrite a := fun a => by rw [State.mayWrite, hy.writable, State.mayWrite]
  have hread := calls_read (bs := bs) h hy.pos hn
    (fun j hj => by
      obtain ⟨hlen, hlimit, hmay⟩ := hbs j hj
      refine ⟨hlen, (withinLimit_congr hy.cfg).2 hlimit, ?_⟩
      rw [hroom, hy.cfg, hy.rxa]
      exact hmay)
    (by rw [hy.cfg, hy.sel]; exact hpull) (hy.presents _ hv)
  rw [hy.cfg, hy.rxa] at hread
  exact hread.goOn fun u _ ⟨_, hshift⟩ => ⟨u, rfl, UpTo.refl u, hshift⟩

end

/-- RD_REG reads one byte and reports it, RD_REGS reads LEN bytes and reports none (43_register_gateway R197). -/
theorem registerRead_reports {i : Instr} {addr : BitVec 7} {index : Byte} {n : Nat} {r : Word} {s : State}
    {bs : Nat → List (Nat × Level)}
    (hi : (i = .rdReg addr index ∧ n = 1 ∧ r = (assembled (bs 0)).zeroExtend 32 <<< 3)
      ∨ (i = .rdRegs addr index ∧ n = s.cur.len.toNat ∧ r = 0)) :
    RegisterRead i addr index n s ∧ n ≤ 65536
      ∧ ∀ w : Work, (0 < n → w.shift = assembled (bs (n - 1))) → finishWord i w = r := by
  obtain ⟨rfl, rfl, rfl⟩ | ⟨rfl, rfl, rfl⟩ := hi
  · exact ⟨registerRead_rdReg addr index s, by decide, fun w hw => by rw [finishWord, hw Nat.one_pos]⟩
  · exact ⟨registerRead_rdRegs addr index s, s.cur.len.isLt.le, fun _ _ => rfl⟩

/-- Settles O40: the index write (RegisterRead.ends_indexWrite), then the read (AtRead.calls_readBytes), which alone stores bytes
(bytesStored_readEvents). -/
theorem registerReadsStoreTheReceivedBytes : Obligations.RegisterReadsStoreTheReceivedBytes := by
  intro i addr index n r s bs hpos hi hbs hpull hv evs
  obtain ⟨R, hn, hr⟩ := registerRead_reports (s := s) hi
  have hpresents : Presents s (0 :: 0 :: readEnv bs n) := by rw [Presents, ← hv, nextLevels_length]
  have hends := R.ends_indexWrite hpos hpull (hpresents.left (vs := [0, 0])) fun y hy hrun =>
    (hy.calls_readBytes hrun hn hbs hpull hpresents).ends_finish R.legal hr
  obtain ⟨t, hrun, hended, hmem⟩ := hends.ended_released ((releases_readEvents _ _ _ _ _).append _)
  refine ⟨t, hrun, hended, hmem.trans ?_⟩
  rw [State.after_mem, bytesStored_append, bytesStored_indexWriteEvents, bytesStored_readEvents, List.nil_append,
    List.foldl_map]
  rfl

/-- Settles O41: an index write whose byte 0 is not acknowledged (RegisterRead.ends_indexFailed), which stores no byte
(WriteOutcome.bytesStored_events). -/
theorem registerReadFailsInTheIndexPhase : Obligations.RegisterReadFailsInTheIndexPhase := by
  intro i addr index s hpos hi hv evs
  obtain ⟨n, R⟩ := exists_registerRead s hi
  have hpresents : Presents s [0, 1] := hv
  have hends := R.ends_indexFailed hpos (o := .dataFails 0)
    ⟨Nat.one_pos, hpresents.pulledUp (by decide), hpresents⟩ (by simp)
  exact hends.ended_unstored (WriteOutcome.dataFails 0).releases ((WriteOutcome.dataFails 0).bytesStored_events ..)

/-- Settles O42: the index write (RegisterRead.ends_indexWrite), then a read whose address is not acknowledged
(AtRead.ends_addressNack); neither stores a byte. -/
theorem registerReadFailsInTheReadPhase : Obligations.RegisterReadFailsInTheReadPhase := by
  intro i addr index s hpos hi hv evs
  obtain ⟨n, R⟩ := exists_registerRead s hi
  have hpresents : Presents s [0, 0, 1] := hv
  have hends := R.ends_indexWrite hpos (hpresents.pulledUp (by decide)) (hpresents.left (vs := [0, 0])) fun y hy hrun =>
    hy.ends_addressNack hrun hpresents
  exact hends.ended_unstored ((releases_addrNackEvents _ _ _ _).append _)
    (by simp [bytesStored_indexWriteEvents, addrNackEvents, startEvents, stopEvents])

end Sys2Proof.Machine
end

section
/-! PROOF. How a command can fail: a reserved word, a poll that is never answered, an address and a payload byte that are not
acknowledged (60_exceptions R211 to R217). -/

namespace Sys2Proof.Machine

/-! Reserved words (60_exceptions R215). -/

/-- A reserved command performs no event and finishes with STATUS = ILLEGAL. -/
theorem ends_reserved {i : Instr} {s : State} (hi : i.reserved = true) (hpos : s.cur.pos = .entry) : Ends i [] 3 s :=
  have hnone : Performs i [] s s := ⟨rfl, UpTo.refl s⟩
  hnone.finish (resultIllegal_eq ▸ exec_reserved hi hpos)

theorem ended_reserved {i : Instr} {s : State} (hi : i.reserved = true) (hpos : s.cur.pos = .entry) :
    ∃ t, exec i s = .next t ∧ Ended s t [] s.cur.scl s.cur.sda 3 ∧ t.mem = s.mem := by
  obtain ⟨t, hrun, hmem, hended⟩ := (ends_reserved hi hpos).ended bytesStored_nil rfl rfl
  exact ⟨t, (execN_one i s).symm.trans hrun, hended, hmem⟩

/-- A word with RSV not 0, or with OP 0xE or 0xF, is reserved (30_encoding R90). -/
theorem decode_reserved {w : Word} (h : fieldRsv w ≠ 0 ∨ fieldOp w = 0xE ∨ fieldOp w = 0xF) :
    (decode w).reserved = true := by
  by_cases hrsv : fieldRsv w = 0
  · rw [decode_of_rsv_zero hrsv]
    exact (decodeOp_reserved_iff w).2 (h.resolve_left (not_not_intro hrsv))
  · exact decode_reserved_of_rsv hrsv

/-- Settles O22: a reserved command finishes at its entry (ended_reserved), and the words of R90 decode to reserved commands
(decode_reserved). -/
theorem reservedWordsFinishIllegal : Obligations.ReservedWordsFinishIllegal :=
  ⟨fun _ _ hi hpos => ended_reserved hi hpos, fun _ _ hw hpos => ended_reserved (decode_reserved hw) hpos⟩

/-! The poll that is never answered (60_exceptions R213, 40_bit_master R115). -/

/-- A line that the environment holds low reads 0, however the engine drives it (10_state R22). -/
theorem level_of_held {l : Line} {s : State} (h : s.envLevel = 0) : s.level l = 0 := by
  rw [State.level, h]
  exact BitVec.and_zero

/-- A poll that reads 0 with no STRETCH_LIMIT is repeated. -/
theorem pollStep_repeats {site : RecvSite} {s : State} (hv : s.envLevel = 0) (hm : s.cfg.stretchLimit = none) :
    pollStep site s = (s.getLine .scl).goto (.recv site .poll) := by
  simp [pollStep, level_of_held hv, hm]

section
variable {i : Instr} {site : RecvSite} {body : RecvPos → State → Out} {ret : State → State} {s : State}

theorem Receives.performs_heldPoll (R : Receives i site body ret s) (hpos : s.cur.pos = .recv site .poll)
    (hv : s.envLevel = 0) (hm : s.cfg.stretchLimit = none) :
    Performs i [.r .scl 0] s ((s.getLine .scl).goto (.recv site .poll)) := by
  have hpoll : exec i s = .next (pollStep site s) := by rw [R.runs .poll s hpos rfl rfl rfl, R.bit _ (by simp)]; rfl
  rw [pollStep_repeats hv hm] at hpoll
  refine performs_one hpoll ((upTo_goto _ _).trans ?_)
  rw [← level_of_held (l := .scl) hv]
  exact getLine_upTo_afterOne .scl s

/-- With no STRETCH_LIMIT the command is still at the poll after any number of polls that read 0. -/
theorem Receives.performs_heldPolls {n : Nat} (R : Receives i site body ret s) (hpos : s.cur.pos = .recv site .poll)
    (hm : s.cfg.stretchLimit = none) (hv : Presents s (List.replicate n 0)) :
    ∃ t, Performs i (List.replicate n (.r .scl 0)) s t ∧ t.cur.pos = .recv site .poll := by
  induction n generalizing s with
  | zero => exact ⟨s, ⟨rfl, UpTo.refl s⟩, hpos⟩
  | succ n ih =>
    have hone := R.performs_heldPoll hpos (presents_cons.1 hv).1 hm
    obtain ⟨t, hrest, htpos⟩ := ih (s := (s.getLine .scl).goto (.recv site .poll))
      (R.congr (by simp) (by simp) (by simp)) rfl (by simpa using hm) (hone.upTo.presents_after hv)
    exact ⟨t, hone.trans hrest, htpos⟩

end

/-- No event writes what a completion writes (00_scope R9, 10_state R30, R31). -/
theorem UpTo.after_busy_result {u s : State} {evs : List Event} (h : UpTo u (s.after evs)) :
    u.cur.busy = s.cur.busy ∧ u.cur.result = s.cur.result := by
  obtain ⟨scl, sda, env, presented, hafter⟩ := State.after_eq evs s
  unfold UpTo at h
  rw [h, hafter]
  exact ⟨rfl, rfl⟩

/-- Polls leave every drive level. -/
theorem UpTo.drive_after_polls {u s : State} {n : Nat} {v : Level} (h : UpTo u (s.after (List.replicate n (.r .scl v))))
    (l : Line) : u.cur.drive l = s.cur.drive l := by
  rw [h.drive, State.after_drive, levelAfter_polls]

/-- Settles O33: the command stays at its poll (Receives.performs_heldPolls), and polls write neither a drive level nor caller
memory nor what a completion writes. -/
theorem pollRepeatsWhileSclReadsZero : Obligations.PollRepeatsWhileSclReadsZero := by
  intro i site n s ho hpos hm hv
  have hpresents : Presents s (List.replicate n 0) := by
    rw [Presents, List.length_replicate]
    exact List.eq_replicate_iff.2 ⟨nextLevels_length n s, hv⟩
  obtain ⟨body, ret, R⟩ := receives_of_owns ho hpos
  obtain ⟨t, ⟨hrun, hup⟩, htpos⟩ := R.performs_heldPolls hpos hm hpresents
  rw [List.length_replicate] at hrun
  obtain ⟨hbusy, hresult⟩ := hup.after_busy_result
  exact ⟨t, hrun, htpos, hbusy, hresult, hup.drive_after_polls .scl, hup.drive_after_polls .sda,
    hup.after_mem (bytesStored_polls n 0), hup.after_history⟩

/-! An address byte that is not acknowledged (60_exceptions R211, R214; 70 R242). -/

/-- Without pull-ups no line reads 1 (70 R242 item 2). -/
theorem level_of_noPullUps {l : Line} {s : State} (h : s.cfg.pulledUp s.sel = false) : s.level l = 0 :=
  level_of_held (by simp [State.envLevel, h])

/-- A command that is one write transaction runs as that write. -/
theorem runsAs_of_writePlan {i : Instr} {s : State} {n : Nat} {data : Nat → Payload}
    (hw : writePlan i s.cur.len = some (n, data)) :
    RunsAs i (writeStep (deviceAddr i) n data (State.goto .finish)) s :=
  fun _ he hf hl _ => exec_of_writePlan (hl ▸ hw) he hf

/-- From the entry of a command whose first transaction has the address byte in this direction. -/
theorem ends_firstAddressFailed {i : Instr} {body : State → Out} {rw : BitVec 1} {go ret : State → State} {s : State}
    (h : RunsAs i body (beginCommand i s)) (T : Transaction body (deviceAddr i) rw go ret) (hgo : Silent go)
    (hi : isTransaction i = true) (hpos : s.cur.pos = .entry) (hfails : s.envLevel = 1 ∨ s.cfg.pulledUp s.sel = false) :
    Ends i (addrNackEvents s.cfg.tUs (deviceAddr i) rw s.envLevel) 1 s := by
  have hbegin := silent_beginCommand i s
  have henv : (beginCommand i s).envLevel = s.envLevel :=
    presents_singleton.1 (hbegin.presents.2 (presents_singleton.2 rfl))
  refine Ends.of_begin (reserved_of_isTransaction hi) hpos ?_
  rw [← hbegin.cfg]
  exact ends_addressFailed h T hgo (beginCommand_pos_of_isTransaction hi s) henv (by rwa [hbegin.cfg, hbegin.sel])

/-- The first address byte of a Buffer Transfer command has direction 1 in READ only: a composite read begins with its index
write (42_buffer_master R160; 43_register_gateway R194, R195). -/
theorem ends_addressNack {i : Instr} {s : State} (hi : isTransaction i = true) (hpos : s.cur.pos = .entry)
    (hfails : s.envLevel = 1 ∨ s.cfg.pulledUp s.sel = false) :
    Ends i (addrNackEvents s.cfg.tUs (deviceAddr i) (direction i 0) s.envLevel) 1 s := by
  have write {n : Nat} {data : Nat → Payload} {ret : State → State}
      (h : RunsAs i (writeStep (deviceAddr i) n data ret) (beginCommand i s)) :
      Ends i (addrNackEvents s.cfg.tUs (deviceAddr i) 0 s.envLevel) 1 s :=
    ends_firstAddressFailed h (transaction_write _ n data ret)
      ((silent_nextPayload n data).comp fun u => upTo_setWork u _) hi hpos hfails
  cases i with
  | write _ | wrRegIdx _ _ | wrReg _ _ _ | wrRegs _ _ => exact write (runsAs_of_writePlan rfl)
  | read addr =>
    exact ends_firstAddressFailed (runsAs_read rfl) (transaction_read addr _ _)
      ((silent_nextReceived _).comp fun u => upTo_setWork u _) hi hpos hfails
  | rdReg addr index => exact write (registerRead_rdReg addr index s).runsAs_index
  | rdRegs addr index => exact write (registerRead_rdRegs addr index s).runsAs_index
  | _ => cases hi

theorem bytesStored_addrNackEvents (tUs : Nat) (addr : BitVec 7) (rw : BitVec 1) (v : Level) :
    bytesStored (addrNackEvents tUs addr rw v) = [] := by simp [addrNackEvents, startEvents, stopEvents]

/-- Settles O37: a bus without pull-ups reads 0 (level_of_noPullUps); a failed address phase ends the command
(ends_addressNack), and stores no byte. -/
theorem addressNackFailsTheCommand : Obligations.AddressNackFailsTheCommand := by
  refine ⟨fun _ _ hpull => level_of_noPullUps hpull, ?_⟩
  intro i s hpos hi hfails evs
  have hevs : addrNackEvents s.cfg.tUs (deviceAddr i) (direction i 0) s.envLevel = evs :=
    congrArg (addrNackEvents _ _ · _) (by cases i <;> rfl)
  rw [← hevs]
  exact (ends_addressNack hi hpos hfails).ended_unstored (releases_addrNackEvents _ _ _ _)
    (bytesStored_addrNackEvents _ _ _ _)

/-! A payload byte that is not acknowledged (60_exceptions R212, R214). -/

/-- Settles O38: the run of the write up to its byte k (ends_dataFailed), which stores no byte
(WriteOutcome.bytesStored_events). -/
theorem dataNackFailsTheCommand : Obligations.DataNackFailsTheCommand := by
  intro i s n k data d hpos hw hk hb hd hv evs
  obtain ⟨hi, hbegin, hn, -⟩ := writePlan_command hw
  have hpresents : Presents s (0 :: List.replicate k 0 ++ [1]) := by simpa [Presents, List.replicate_succ] using hv
  have hends : Ends i evs 1 s := by
    refine Ends.of_begin hi hpos ?_
    rw [hbegin]
    exact ends_dataFailed (runsAs_of_writePlan hw) rfl hk hn (fun j hj => gives_of_payloadByte (hb j hj) hd)
      (hpresents.pulledUp (by simp)) ((silent_goto _ s).presents.2 hpresents)
  exact hends.ended_unstored (releases_dataNackEvents _ _ _ _ _ _)
    ((WriteOutcome.dataFails k).bytesStored_events _ _ _ _ _ n)

end Sys2Proof.Machine
end

section
/-! PROOF. The engine with nothing to do, the caller's breaches of its contract, the reset in mid-run, and an access to a byte
the caller has not provided (60_exceptions R225; 70 R240, R241, R245, R246). -/

namespace Sys2Proof.Machine

/-- Settles O25: the MemRead of a write and the MemWrite of a read are the accesses of a command, and each is stuck there
(exec_stuck). -/
theorem unprovidedAccessIsStuck : Obligations.UnprovidedAccessIsStuck := fun _ _ _ ho haddr ha => exec_stuck ho haddr ha

/-! Nothing to do (70 R241). -/

theorem busyPorts_of_idle {s : State} (hcur : s.cur.busy = false) (hothers : ∀ e ∈ s.others, e.2.busy = false) :
    s.busyPorts = [] := by
  have hnone : s.others.filter (fun e => e.2.busy) = [] :=
    List.filter_eq_nil_iff.2 fun e he => by simp [hothers e he]
  simp [State.busyPorts, hcur, hnone]

theorem mover_of_no_movers {s : State} (hturn : s.turn = []) (hmovers : s.movers = []) : s.mover = none := by
  simp only [State.mover, hturn, hmovers]

/-- Settles O9: no port has a command in flight (busyPorts_of_idle), so no agent can move. -/
theorem idleEngineWaits : Obligations.IdleEngineWaits := by
  intro s hturn hinbox hcur hothers
  have hmovers : s.movers = [] := by simp [State.movers, busyPorts_of_idle hcur hothers, hinbox]
  simp only [step, mover_of_no_movers hturn hmovers]

/-! The port contract (60_exceptions R225, 70 R245). -/

theorem mem_portsAt {s : State} {p loc : Nat} {l : Line} (hp : p < s.cfg.nPorts) (hloc : s.cfg.lineLoc l p = some loc) :
    p ∈ s.portsAt loc := by
  cases l <;> simp [State.portsAt, hp, hloc]

/-- A foreign write to a location of a port whose command is in flight faults, whatever other ports have that location. -/
theorem hostLineWrite_of_busy {s : State} {p loc : Nat} (hmem : p ∈ s.portsAt loc) (hb : (s.port p).busy = true) :
    hostLineWrite loc s = .fault (.lineWriteDuringCommand loc) := by
  have hany : (s.portsAt loc).any (fun q => (s.port q).busy) = true := List.any_eq_true.2 ⟨p, hmem, hb⟩
  rw [hostLineWrite, if_neg (List.ne_nil_of_mem hmem), if_pos hany]

/-- Settles O11: BUSY refuses the issue, and the port is one of those at the written location (mem_portsAt). -/
theorem breakingThePortContractFaults : Obligations.BreakingThePortContractFaults := by
  intro s p b l loc v hp hb
  refine ⟨?_, fun hloc => hostLineWrite_of_busy (mem_portsAt hp hloc) hb⟩
  simp only [hostAct, hostIssue, hp, hb, if_true]

/-! The reset in mid-run (70 R240). -/

/-- A reset of the engine restarts every port, the ones never touched among them. -/
theorem hostReset_port {s t : State} (h : hostReset s = .next t) (p : Nat) : t.port p = (s.port p).restart p := by
  cases h
  exact port_map (f := PortState.restart) rfl rfl rfl rfl

/-- Settles O13: every port is restarted (hostReset_port), which keeps its bus environment only. -/
theorem hostResetAbandonsEveryCommand : Obligations.HostResetAbandonsEveryCommand := by
  intro s
  refine ⟨_, rfl, rfl, fun p => ?_⟩
  rw [hostReset_port rfl]
  exact ⟨rfl, rfl, rfl, rfl, rfl, rfl⟩

end Sys2Proof.Machine
end

section
/-! PROOF. How many timing units the events of each procedure and of each transaction hold (70 R250). -/

namespace Sys2Proof.Machine

@[simp] theorem delays_nil : delays [] = 0 := rfl
@[simp] theorem delays_r (l : Line) (v : Level) (evs : List Event) : delays (.r l v :: evs) = delays evs := rfl
@[simp] theorem delays_mr (a : Nat) (v : Byte) (evs : List Event) : delays (.mr a v :: evs) = delays evs := rfl
@[simp] theorem delays_mw (a : Nat) (v : Byte) (evs : List Event) : delays (.mw a v :: evs) = delays evs := rfl
@[simp] theorem delays_g (e : DiagEvent) (evs : List Event) : delays (.g e :: evs) = delays evs := rfl

@[simp] theorem delays_append (e f : List Event) : delays (e ++ f) = delays e + delays f := List.countP_append

/-- Parts of c timing units each. -/
theorem delays_flatMap {α : Type} {l : List α} {f : α → List Event} {c : Nat} (h : ∀ a ∈ l, delays (f a) = c) :
    delays (l.flatMap f) = c * l.length := by
  induction l with
  | nil => rfl
  | cons a l ih =>
    obtain ⟨ha, hl⟩ := List.forall_mem_cons.1 h
    rw [List.flatMap_cons, delays_append, ha, ih hl, List.length_cons, Nat.mul_succ, Nat.add_comm]

@[simp] theorem delays_polls (k : Nat) (v : Level) : delays (List.replicate k (.r .scl v)) = 0 := by
  induction k with
  | zero => rfl
  | succ k ih => rw [List.replicate_succ, delays_r, ih]

/-! The procedures. -/

section
variable (tUs : Nat)

/-- A straight line of pseudocode has the timing units that it waits. -/
theorem delays_lineEvents (code : List LineAct) : delays (lineEvents tUs code) = code.count .wait := by
  rw [delays, lineEvents, List.countP_map]
  refine List.countP_congr fun a _ => ?_
  cases a <;> simp [LineAct.event]

@[simp] theorem delays_startEvents : delays (startEvents tUs) = 4 := delays_lineEvents tUs startCode
@[simp] theorem delays_stopEvents : delays (stopEvents tUs) = 3 := delays_lineEvents tUs stopCode
@[simp] theorem delays_sendBit (b : Level) : delays (lineEvents tUs (sendBitCode b)) = 2 := delays_lineEvents tUs _
@[simp] theorem delays_release : delays (lineEvents tUs releaseCode) = 2 := delays_lineEvents tUs _
@[simp] theorem delays_pulse9 : delays (lineEvents tUs pulse9Code) = 2 := delays_lineEvents tUs _
@[simp] theorem delays_raise : delays (lineEvents tUs raiseCode) = 1 := delays_lineEvents tUs _
@[simp] theorem delays_lower : delays (lineEvents tUs lowerCode) = 1 := delays_lineEvents tUs _
@[simp] theorem delays_ack (a : BitVec 1) : delays (lineEvents tUs (ackCode a)) = 2 := delays_lineEvents tUs _

@[simp] theorem delays_sendByteEvents (d : Byte) (v : Level) : delays (sendByteEvents tUs d v) = 20 := by
  have hbits : delays ((List.range 8).flatMap fun k => lineEvents tUs (sendBitCode (wireBit d k))) = 2 * 8 :=
    delays_flatMap fun _ _ => delays_sendBit tUs _
  simp [sendByteEvents, hbits]

/-- Polls take no timing unit: a stretched bit has as many as any other. -/
@[simp] theorem delays_receiveBitEvents (k : Nat) (b : Level) : delays (receiveBitEvents tUs k b) = 2 := by
  simp [receiveBitEvents]

theorem delays_receiveByteEvents {bits : List (Nat × Level)} (h : bits.length = 8) (a : BitVec 1) :
    delays (receiveByteEvents tUs bits a) = 18 := by
  have hbits : delays (bits.flatMap fun b => receiveBitEvents tUs b.1 b.2) = 2 * 8 :=
    h ▸ delays_flatMap fun _ _ => delays_receiveBitEvents tUs _ _
  simp [receiveByteEvents, hbits]

/-! The transactions. -/

variable (addrOf : Nat → Nat) (addr : BitVec 7) (data : Nat → Payload) (d : Nat → Byte)

@[simp] theorem delays_payloadEvents (src : Payload) (b : Byte) (v : Level) :
    delays (payloadEvents tUs addrOf src b v) = 20 := by
  cases src <;> simp [payloadEvents]

@[simp] theorem delays_payloadsEvents (n : Nat) : delays (payloadsEvents tUs addrOf data d n) = 20 * n := by
  rw [payloadsEvents, delays_flatMap fun _ _ => delays_payloadEvents tUs addrOf _ _ _, List.length_range]

theorem delays_writeEvents (n : Nat) : delays (writeEvents tUs addrOf addr data d n) = 27 + 20 * n := by
  simp only [writeEvents, delays_append, delays_startEvents, delays_sendByteEvents, delays_payloadsEvents, delays_stopEvents]
  omega

theorem delays_addrNackEvents (rw : BitVec 1) (v : Level) : delays (addrNackEvents tUs addr rw v) = 27 := by
  simp [addrNackEvents]

theorem delays_dataNackEvents (k : Nat) : delays (dataNackEvents tUs addrOf addr data d k) = 47 + 20 * k := by
  simp only [dataNackEvents, delays_append, delays_startEvents, delays_sendByteEvents, delays_payloadsEvents,
    delays_payloadEvents, delays_stopEvents, delays_g, delays_nil]
  omega

theorem delays_receivedEvents {bs : Nat → List (Nat × Level)} {n : Nat} (h : ∀ j < n, (bs j).length = 8) :
    delays (receivedEvents tUs addrOf bs n) = 18 * n := by
  rw [receivedEvents, delays_flatMap (c := 18), List.length_range]
  intro j hj
  simp [delays_receiveByteEvents tUs (h j (List.mem_range.1 hj))]

theorem delays_readEvents {bs : Nat → List (Nat × Level)} {n : Nat} (h : ∀ j < n, (bs j).length = 8) :
    delays (readEvents tUs addrOf addr bs n) = 27 + 18 * n := by
  simp only [readEvents, delays_append, delays_startEvents, delays_sendByteEvents, delays_receivedEvents tUs addrOf h,
    delays_stopEvents]
  omega

end

/-- Settles O45: the counts of the procedures and the transactions; a composite read is an index write of one byte,
27 + 20 = 47, and then its read phase. -/
theorem delayCounts : Obligations.DelayCounts := by
  intro tUs k b addrOf addr data d n bs ack rw byte
  have hindex : delays (writeEvents tUs addrOf addr data d 1) = 47 := delays_writeEvents tUs addrOf addr data d 1
  refine ⟨delays_lineEvents tUs initCode, delays_startEvents tUs, delays_stopEvents tUs, delays_sendBit tUs b,
    delays_receiveBitEvents tUs k b, delays_sendByteEvents tUs byte b, fun h => delays_receiveByteEvents tUs h ack,
    delays_writeEvents tUs addrOf addr data d n, fun h => delays_readEvents tUs addrOf addr h,
    delays_addrNackEvents tUs addr rw b, delays_dataNackEvents tUs addrOf addr data d k, fun h => ?_, ?_⟩
  · rw [delays_append, hindex, delays_readEvents tUs addrOf addr h]
    omega
  · rw [delays_append, hindex, delays_addrNackEvents]

end Sys2Proof.Machine
end
